-- ==== Sys2Proof/Word.lean ====
section
/-! DEFINITION. The three word widths of the block (00_scope.md R4): the byte, the 32-bit word of the data
registers and of the result port, and the 16-bit command word. -/

namespace Sys2Proof

/-- A byte: the operand `IMM` of a command, one byte of a chunk (R4, R35). -/
abbrev Byte := BitVec 8

/-- A 32-bit unsigned word: the registers `CRC`, `W`, `LEN`, `TYP`, `AVL` and the result port `q` (R4, R10, R22). -/
abbrev Word := BitVec 32

/-- A 16-bit command word `cw` on the port `cmd` (R22, R45). It has no byte order: it is one value on a port. -/
abbrev CommandWord := BitVec 16

end Sys2Proof
end

