-- ==== Sys2Proof/Syntax.lean ====
section
/-! DEFINITION. The commands as syntax: `Instr`, one constructor for each of the sixteen rows of
spec/opcode_table.json (30_encoding.md R48), and the source lines of the spec's assembler text (R53, R54). -/

namespace Sys2Proof

/-- The sixteen commands (R48). The two format B commands carry their byte operand `IMM` (R46, R47); every other
command names its registers implicitly and carries nothing. -/
inductive Instr where
  /-- `NOP`, 0x0000: do nothing (R105). -/
  | nop
  /-- `CLR`, 0x0100: every register to its reset value (R106). -/
  | clr
  /-- `RDST`, 0x0200: output the status word (R107). -/
  | rdst
  /-- `CRCINIT`, 0x1000: start a checksum (R65). -/
  | crcinit
  /-- `CRCB imm`, 0x11ii: feed one byte to the checksum (R66). -/
  | crcb (imm : Byte)
  /-- `RDCRC`, 0x1200: output the finished checksum (R67). -/
  | rdcrc
  /-- `CHK`, 0x1300: compare the checksum with the stored one in `W` (R68). -/
  | chk
  /-- `PUSHW imm`, 0x20ii: shift one byte into the word assembler (R78). -/
  | pushw (imm : Byte)
  /-- `CLRW`, 0x2100: clear the word assembler (R79). -/
  | clrw
  /-- `SETAVL`, 0x2200: set the buffer size (R80). -/
  | setavl
  /-- `LATLEN`, 0x2300: latch the declared length (R81). -/
  | latlen
  /-- `RDLEN`, 0x2400: output the latched length (R82). -/
  | rdlen
  /-- `LATTYP`, 0x3000: latch a type code from raw bytes (R97). -/
  | lattyp
  /-- `LATTYPS`, 0x3100: latch a type code from its readable string form (R98). -/
  | lattyps
  /-- `RDTYP`, 0x3200: output the latched type code (R99). -/
  | rdtyp
  /-- `RDFLG`, 0x3300: output the flags of the latched type code (R100). -/
  | rdflg
  deriving DecidableEq, Repr

/-- The two command formats (R46): `n` takes no operand, `b` takes the byte operand `IMM`. -/
inductive Format where
  | n
  | b
  deriving DecidableEq, Repr

/-- The sixteen mnemonics of the assembler text (R48, R53), without their operands. -/
inductive Mnemonic where
  | nop | clr | rdst
  | crcinit | crcb | rdcrc | chk
  | pushw | clrw | setavl | latlen | rdlen
  | lattyp | lattyps | rdtyp | rdflg
  deriving DecidableEq, Repr

/-- One line of assembler text as a writer wrote it, with its numbers not yet held to their ranges (R53, R54);
WellFormed.lean checks those. -/
inductive Line where
  /-- A mnemonic and the operand after it, if one stands there (R53). -/
  | command (m : Mnemonic) (operand : Option Nat)
  /-- The directive `.word 0xHHHH`: a raw command word (R53). -/
  | word (cw : Nat)
  /-- The pseudo-instruction `PUSH32 v` (R54). -/
  | push32 (v : Nat)
  /-- The pseudo-instruction `PUSHS`, a string or a list of byte numbers (R54). -/
  | pushs (bytes : List Nat)
  /-- The pseudo-instruction `CRCS`, a string or a list of byte numbers (R54). -/
  | crcs (bytes : List Nat)
  deriving DecidableEq, Repr

/-- The format each command has (the table of R46). -/
def Mnemonic.format : Mnemonic → Format
  | .crcb | .pushw => .b
  | .nop | .clr | .rdst | .crcinit | .rdcrc | .chk | .clrw | .setavl | .latlen | .rdlen
  | .lattyp | .lattyps | .rdtyp | .rdflg => .n

/-- The mnemonic of a command (R48). -/
def Instr.mnemonic : Instr → Mnemonic
  | .nop => .nop
  | .clr => .clr
  | .rdst => .rdst
  | .crcinit => .crcinit
  | .crcb _ => .crcb
  | .rdcrc => .rdcrc
  | .chk => .chk
  | .pushw _ => .pushw
  | .clrw => .clrw
  | .setavl => .setavl
  | .latlen => .latlen
  | .rdlen => .rdlen
  | .lattyp => .lattyp
  | .lattyps => .lattyps
  | .rdtyp => .rdtyp
  | .rdflg => .rdflg

/-- The source line that stands for a command: its mnemonic, and for format B its operand (R53). -/
def Instr.line : Instr → Line
  | .crcb imm => .command .crcb (some imm.toNat)
  | .pushw imm => .command .pushw (some imm.toNat)
  | i => .command i.mnemonic none

end Sys2Proof
end

