-- ==== Sys2Proof/Decode.lean ====
section
/-! DEFINITION. Decoding a command word, total and rejecting by name (30_encoding.md R45 to R52), and after it the
encoder, written from the same opcode map. -/

namespace Sys2Proof

/-- Why a word spells no command (R50): its `OPC` is not in the table, or it is a format N opcode with
`IMM != 0x00`. R49 calls both ILLEGAL and the block does not tell them apart; the two names are the model's
(log entry 9). -/
inductive Illegal where
  | unknownOpcode (opc : Byte)
  | operandNotZero (opc imm : Byte)
  deriving DecidableEq, Repr

/-- What a command word decodes to: a command, or ILLEGAL with the reason (R49). -/
inductive Decoded where
  | command (i : Instr)
  | illegal (why : Illegal)
  deriving DecidableEq, Repr

/-- The command of a decoded word, where it spells one. -/
def Decoded.command? : Decoded → Option Instr
  | .command i => some i
  | .illegal _ => none

/-- The field `OPC`, bits 15:8 of a command word (R45). -/
def opcField (cw : CommandWord) : Byte := cw.extractLsb' 8 8

/-- The field `IMM`, bits 7:0 of a command word (R45, R47). -/
def immField (cw : CommandWord) : Byte := cw.extractLsb' 0 8

/-- The fourteen format N rows of the opcode map (R48, R49): opcode and command. -/
def formatNRows : List (Byte × Instr) :=
  [(0x00#8, .nop), (0x01#8, .clr), (0x02#8, .rdst),
   (0x10#8, .crcinit), (0x12#8, .rdcrc), (0x13#8, .chk),
   (0x21#8, .clrw), (0x22#8, .setavl), (0x23#8, .latlen), (0x24#8, .rdlen),
   (0x30#8, .lattyp), (0x31#8, .lattyps), (0x32#8, .rdtyp), (0x33#8, .rdflg)]

/-- The format N command of an opcode, where the map has one (R48). -/
def formatNCommand (opc : Byte) : Option Instr :=
  (formatNRows.find? fun row => row.1 == opc).map Prod.snd

/-- Decoding (R49): format B first, then format N with its zero operand; every other word is ILLEGAL. It reads
nothing but the word (R52). -/
def decode (cw : CommandWord) : Decoded :=
  let opc := opcField cw
  let imm := immField cw
  if opc = 0x11#8 then .command (.crcb imm)
  else if opc = 0x20#8 then .command (.pushw imm)
  else
    match formatNCommand opc with
    | some i => if imm = 0x00#8 then .command i else .illegal (.operandNotZero opc imm)
    | none => .illegal (.unknownOpcode opc)

/-- The command word of a row of spec/opcode_table.json whose bits are `w`, `nbits` of them (R45: every command is
one 16-bit word). Bits above `nbits` are 0; bits above 15 are no bits of a command word (log entry 10). -/
def tableWord (nbits w : Nat) : CommandWord := BitVec.ofNat 16 (w % 2 ^ nbits)

/-- The command the decoder reads from an instruction whose bits are `w`. -/
def decodeTableWord (nbits w : Nat) : Option Instr := (decode (tableWord nbits w)).command?

/-! ### The encoder -/

/-- The opcode of each command (the column `OPC` of R48). -/
def Instr.opcode : Instr → Byte
  | .nop => 0x00
  | .clr => 0x01
  | .rdst => 0x02
  | .crcinit => 0x10
  | .crcb _ => 0x11
  | .rdcrc => 0x12
  | .chk => 0x13
  | .pushw _ => 0x20
  | .clrw => 0x21
  | .setavl => 0x22
  | .latlen => 0x23
  | .rdlen => 0x24
  | .lattyp => 0x30
  | .lattyps => 0x31
  | .rdtyp => 0x32
  | .rdflg => 0x33

/-- The field `IMM` of a command: the operand of format B, 0x00 in format N (R45, R46). -/
def Instr.operand : Instr → Byte
  | .crcb imm => imm
  | .pushw imm => imm
  | .nop | .clr | .rdst | .crcinit | .rdcrc | .chk | .clrw | .setavl | .latlen | .rdlen
  | .lattyp | .lattyps | .rdtyp | .rdflg => 0x00

/-- The command word of a command: `(OPC << 8) or IMM` (R53), `OPC` in bits 15:8 and `IMM` in bits 7:0 (R45). -/
def encode (i : Instr) : CommandWord := (i.opcode.setWidth 16 <<< 8) ||| i.operand.setWidth 16

/-- The mask of a command's row: 0xFFFF in format N, 0xFF00 in format B (R46, R48). -/
def Instr.rowMask (i : Instr) : CommandWord :=
  match i.mnemonic.format with
  | .n => 0xFFFF
  | .b => 0xFF00

/-- The match value of a command's row: `OPC << 8` (R46, R48). -/
def Instr.rowMatch (i : Instr) : CommandWord := i.opcode.setWidth 16 <<< 8

end Sys2Proof
end

