-- ==== Sys2Proof/Machine/Operands.lean ====
section
/-! DEFINITION. The operand forms: the bytes of a word, the big-endian word of four bytes and its inverse, the word
assembler's shift and count, and the bound check at 34 bits (20_memory.md R31, 10_state.md R12, R14,
42_word_length.md R75, R76, R78, R84). -/

namespace Sys2Proof.Machine

/-- `byte_k(v) = v[31-8k : 24-8k]`, for `k` in 0..3: byte 0 is the first on the wire, in bits 31:24 (R14). -/
def byteOf (k : Fin 4) (v : Word) : Byte := v.extractLsb' (24 - 8 * k.val) 8

/-- `be32(b0, b1, b2, b3)`: the big-endian word four stream bytes spell, `b0` most significant (R75). -/
def be32 (b0 b1 b2 b3 : Byte) : Word := b0 ++ b1 ++ b2 ++ b3

/-- `be4(v)`: the four bytes of a word in stream order, most significant first (R76). -/
def be4 (v : Word) : List Byte := [byteOf 0 v, byteOf 1 v, byteOf 2 v, byteOf 3 v]

/-- `(W << 8) or zext_32(IMM)`: one byte shifted into the word assembler, the old top byte dropped (R78). -/
def pushByte (w : Word) (imm : Byte) : Word := (w <<< 8) ||| imm.setWidth 32

/-- `min(WC + 1, 5)`: the push count saturates at 5, taken before it is narrowed to 3 bits (R78, R85). -/
def bumpCount (wc : BitVec 3) : BitVec 3 := BitVec.ofNat 3 (min (wc.toNat + 1) 5)

/-- `MIN_CHUNK`: the smallest chunk, 4 length + 4 type + 0 data + 4 crc bytes (R4, R41). -/
def minChunk : Word := 12

/-- `fits(N, L)`: `zext_34(L) + 12 <= zext_34(N)`, added at 34 bits so that it cannot wrap (R84). -/
def fits (n l : Word) : Bool := decide (l.setWidth 34 + 12#34 ≤ n.setWidth 34)

end Sys2Proof.Machine
end

