-- ==== Sys2Proof/Machine/Checksum.lean ====
section
/-! DEFINITION. The checksum as a function: the byte step, its fold and the finished value (41_crc.md R60 to R63),
and the two other ways to compute it that the spec gives (R64), which no command uses. -/

namespace Sys2Proof.Machine

/-- The generator polynomial with its bits reversed, as the byte step uses it (R60). -/
def crcPoly : Word := 0xEDB88320

/-- The generator polynomial with the most significant bit first, its x^32 term implied (R60). -/
def crcPolyMsbFirst : Word := 0x04C11DB7

/-- The initial register value (R60). -/
def crcInit : Word := 0xFFFFFFFF

/-- The final XOR (R60). -/
def crcFinalXor : Word := 0xFFFFFFFF

/-- One iteration of the byte step: a logical right shift by one, and the polynomial XORed in where the bit shifted
out is 1 (R61). -/
def crcRound (x : Word) : Word := if x.getLsbD 0 then (x >>> 1) ^^^ crcPoly else x >>> 1

/-- A number of iterations, one after the other (R61: "repeat 8 times"). -/
def crcRounds : Nat → Word → Word
  | 0, x => x
  | n + 1, x => crcRounds n (crcRound x)

/-- `crc_step(c, b)`: the byte goes into bits 7:0, then eight iterations (R61). -/
def crcStep (c : Word) (b : Byte) : Word := crcRounds 8 (c ^^^ b.setWidth 32)

/-- `crc_of(c, m)`: the byte step over a byte string, in order (R62). -/
def crcOf (c : Word) (m : List Byte) : Word := m.foldl crcStep c

/-- The finished checksum of a register value: the final XOR (R63, R67). -/
def crcFinish (c : Word) : Word := c ^^^ crcFinalXor

/-- `crc32(m) = crc_of(0xFFFFFFFF, m) xor 0xFFFFFFFF` (R63). -/
def crc32 (m : List Byte) : Word := crcFinish (crcOf crcInit m)

/-! ### The two other ways (R64) -/

/-- `T[i]`: `x` after the eight iterations started from `zext_32(i)` (R64 a). -/
def crcTable (i : Byte) : Word := crcRounds 8 (i.setWidth 32)

/-- The byte step in table form: `(c >> 8) xor T[(c xor zext_32(b))[7:0]]` (R64 a). -/
def crcStepTable (c : Word) (b : Byte) : Word :=
  (c >>> 8) ^^^ crcTable ((c ^^^ b.setWidth 32).extractLsb' 0 8)

/-- One iteration of the form with the most significant bit first (R64 b). -/
def msbRound (r : Word) : Word := if r.getLsbD 31 then (r <<< 1) ^^^ crcPolyMsbFirst else r <<< 1

/-- A number of iterations of that form (R64 b: "then eight times"). -/
def msbRounds : Nat → Word → Word
  | 0, r => r
  | n + 1, r => msbRounds n (msbRound r)

/-- One byte of that form: the reversed byte enters at the top (R64 b). -/
def msbStep (r : Word) (b : Byte) : Word := msbRounds 8 (r ^^^ (b.reverse.setWidth 32 <<< 24))

/-- A byte string in that form, in order (R64 b). -/
def msbOf (r : Word) (m : List Byte) : Word := m.foldl msbStep r

end Sys2Proof.Machine
end

