-- ==== Sys2Proof/Machine/State.lean ====
section
/-! DEFINITION. The state of the machine as plain data: the eleven fields of 10_state.md R10 (`Block`), what waits
at the input ports and what the output port shows after a step (`State`), the reset state, and the reasons a step
could stop. -/

namespace Sys2Proof.Machine

/-- The whole architectural state of the block: the eleven fields of R10, and nothing else (R18, R19, R21: no
register file, no program counter, no hidden state). -/
structure Block where
  /-- `CRC`: the running remainder, reflected, before the final XOR (R11). -/
  crc : Word
  /-- `W`: the word assembler, the last up to four bytes pushed (R12). -/
  w : Word
  /-- `WC`: bytes pushed into `W` since it was last cleared, 0 to 5, 5 meaning more than 4 (R12). -/
  wc : BitVec 3
  /-- `LEN`: the declared payload length (R13). -/
  len : Word
  /-- `LENV`: `LEN` has been latched (R13). -/
  lenv : Bool
  /-- `TYP`: the type code, byte 0 in bits 31:24 (R14). -/
  typ : Word
  /-- `TYPV`: `TYP` has been latched (R14). -/
  typv : Bool
  /-- `AVL`: the number of bytes in the buffer the chunk is parsed from (R15). -/
  avl : Word
  /-- `AVLV`: `AVL` has been set (R15). -/
  avlv : Bool
  /-- `ST.ERR`: the error code of the first fault, 0 for none (R16, R110). -/
  err : BitVec 4
  /-- `ST.CRCOK`: a CHK has matched and `CRC` has not changed since (R16). -/
  crcOk : Bool
  deriving DecidableEq, Repr

/-- The input ports in one clock cycle (R22): the synchronous reset `rst`, `cmd_valid`, and the command word `cmd`. -/
structure PortCycle where
  rst : Bool
  cmdValid : Bool
  cmd : CommandWord
  deriving DecidableEq, Repr

/-- The machine: the block, what the host will still drive on the input ports (oldest cycle first; the model's own
field, log entries 1 to 3), and the output of the last step (R5, R22, R23: `some v` is `q_valid = 1, q = v`; `none`
is `q_valid = 0`, and then `q` has no value). -/
structure State where
  block : Block
  inputs : List PortCycle
  out : Option Word
  deriving DecidableEq, Repr

/-- The kinds of error the block raises (R110). An error is no stop of the model: its entry is the next state that
R113 gives (Ops.lean, `enterFault`). -/
inductive ErrKind where
  | tooShort
  | truncated
  | crcMismatch
  | invalidTypeCode
  | seqError
  | illegalCommand
  deriving DecidableEq, Repr

/-- The reasons a step stops with a fault: none. Every word has a defined step in every state (R5), and every error
of the block is latched in `ST.ERR` and answered with a next state (R113). Nothing raises a fault, which is exact. -/
inductive Fault where
  deriving DecidableEq, Repr

/-- The reasons a step is refused. -/
inductive Refusal where
  /-- An instruction that has no meaning yet, by its mnemonic: raised by no arm of this model, all sixteen commands
  have theirs. Safe: where it stood, the machine would stop where the hardware goes on. -/
  | notModelled (mnemonic : String)
  deriving DecidableEq, Repr

/-- The reset state `RESET` of the block (the table of R20). -/
def Block.reset : Block where
  crc := 0xFFFFFFFF
  w := 0x00000000
  wc := 0
  len := 0x00000000
  lenv := false
  typ := 0x00000000
  typv := false
  avl := 0x00000000
  avlv := false
  err := 0
  crcOk := false

/-- The machine right after reset: the block at `RESET`, `q_valid = 0` (R20), and nothing yet presented at the
input ports (log entry 3). -/
def State.reset : State where
  block := Block.reset
  inputs := []
  out := none

end Sys2Proof.Machine
end

