-- ==== Sys2Proof/Machine/Flags.lean ====
section
/-! DEFINITION. Every flag the spec computes: the letter classes, the properties of a type code and its flags word
(43_typecode.md R90 to R96), the status word (10_state.md R16, 44_system.md R107) and the level output `fault`
(10_state.md R22). The flags of a type code are computed when asked, never stored (R17). -/

namespace Sys2Proof.Machine

/-- `is_upper(b)`: ASCII 'A' to 'Z' (R90). -/
def isUpper (b : Byte) : Bool := decide (0x41#8 ≤ b) && decide (b ≤ 0x5A#8)

/-- `is_lower(b)`: ASCII 'a' to 'z' (R90). -/
def isLower (b : Byte) : Bool := decide (0x61#8 ≤ b) && decide (b ≤ 0x7A#8)

/-- `is_alpha(b)` (R90). -/
def isAlpha (b : Byte) : Bool := isUpper b || isLower b

/-- `is_critical(T)`: byte 0 is uppercase (R91). -/
def isCritical (t : Word) : Bool := isUpper (byteOf 0 t)

/-- `is_public(T)`: byte 1 is uppercase (R92). -/
def isPublic (t : Word) : Bool := isUpper (byteOf 1 t)

/-- `is_reserved_bit_valid(T)`: byte 2 is uppercase (R93). -/
def isReservedBitValid (t : Word) : Bool := isUpper (byteOf 2 t)

/-- `is_safe_to_copy(T)`: byte 3 is lowercase, the one flag whose true value is the lowercase letter (R94). -/
def isSafeToCopy (t : Word) : Bool := isLower (byteOf 3 t)

/-- `all_alpha(T)`: all four bytes are letters (R95). -/
def allAlpha (t : Word) : Bool :=
  isAlpha (byteOf 0 t) && isAlpha (byteOf 1 t) && isAlpha (byteOf 2 t) && isAlpha (byteOf 3 t)

/-- `is_valid(T)`: all letters, and the reserved bit valid (R95). -/
def isValid (t : Word) : Bool := allAlpha t && isReservedBitValid t

/-- The flags word `FLG(T)`: from bit 0 up `CRIT`, `PUB`, `RSV`, `SAFE`, `ALPHA`, `VALID`, and 0 in bits 31:6
(R96). -/
def flagsWord (t : Word) : Word :=
  0#26 ++ BitVec.ofBool (isValid t) ++ BitVec.ofBool (allAlpha t) ++ BitVec.ofBool (isSafeToCopy t)
    ++ BitVec.ofBool (isReservedBitValid t) ++ BitVec.ofBool (isPublic t) ++ BitVec.ofBool (isCritical t)

/-- The status word `{ 0[20:0], WC[2:0], AVLV, TYPV, LENV, ST.CRCOK, ST.ERR[3:0] }` (R16, R107). -/
def statusWord (b : Block) : Word :=
  0#21 ++ b.wc ++ BitVec.ofBool b.avlv ++ BitVec.ofBool b.typv ++ BitVec.ofBool b.lenv
    ++ BitVec.ofBool b.crcOk ++ b.err

/-- The level output `fault`: 1 exactly when `ST.ERR != 0` (R22). -/
def State.faultPort (s : State) : Bool := decide (s.block.err ≠ 0)

/-- The output `q_valid`: 1 exactly when the command just executed produced an output (R22). What `q` shows beside
it is `s.out`; where that is `none`, `q` is given no value (R23). -/
def State.qValid (s : State) : Bool := s.out.isSome

end Sys2Proof.Machine
end

