-- ==== Sys2Proof/Machine/Ops.lean ====
section
/-! DEFINITION. The operations every meaning is written over: what a command may do (`Effect`), the entry of an
error and the return from it (60_exceptions.md R113, R115), the halt rule (R114), and the gates of a complete word
and of a latched register (42_word_length.md R77, 92_eei_decisions.md D13). There is no memory to read or write
(20_memory.md R30). -/

namespace Sys2Proof.Machine

/-- The code latched in `ST.ERR` for each kind of error (R110). -/
def ErrKind.code : ErrKind → BitVec 4
  | .tooShort => 1
  | .truncated => 2
  | .crcMismatch => 3
  | .invalidTypeCode => 4
  | .seqError => 5
  | .illegalCommand => 6

/-- What one command does when it acts: write registers with no output, output a value with no register written, or
raise an error (R24: no command does two of these; R35: a read has no side effect). -/
inductive Effect where
  | write (b : Block)
  | output (v : Word)
  | raise (e : ErrKind)
  deriving DecidableEq, Repr

/-- Taking an error (R113): `ST.ERR` takes the code, every other field keeps its value from before the step, and
there is no output. Nothing else is saved (R125) and control goes nowhere. -/
def enterFault (e : ErrKind) (s : State) : State :=
  { s with block := { s.block with err := e.code }, out := none }

/-- The return from the halted state, and every other way to `RESET` (R106, R115, R130): the whole block at its
reset values, nothing restored, no output. -/
def returnToReset (s : State) : State := { s with block := Block.reset, out := none }

/-- A step that changes no register and has no output: NOP, an ignored command, an idle cycle (R105, R114, R133).
The output of the step before is not held (R23). -/
def quiet (s : State) : State := { s with out := none }

/-- The block is halted while `ST.ERR != 0` (R114). -/
abbrev Block.halted (b : Block) : Prop := b.err ≠ 0

/-- A command's effect, applied (R5, R113): all writes of a step take effect together. -/
def settle : Effect → State → State
  | .write b, s => { s with block := b, out := none }
  | .output v, s => { s with out := some v }
  | .raise e, s => enterFault e s

/-- A command that acts in the halted state too: NOP, CLR, RDST (R114). -/
def actAlways (f : Block → Effect) (s : State) : Host.Outcome State Fault Refusal :=
  .next (settle (f s.block) s)

/-- A command under the halt rule: while `ST.ERR != 0` it is ignored, with no state change, no output and no new
fault (R114). -/
def actUnlessHalted (f : Block → Effect) (s : State) : Host.Outcome State Fault Refusal :=
  .next (if s.block.halted then quiet s else settle (f s.block) s)

/-- The gate of the consuming commands: `W` is used only when it is complete, `WC = 4`; else the command raises
`incomplete` (R77, R116: this test is the first). -/
def withCompleteWord (incomplete : ErrKind) (b : Block) (use : Word → Effect) : Effect :=
  if b.wc = 4 then use b.w else .raise incomplete

/-- The end of a consuming command that completes, and CLRW: `W <- 0`, `WC <- 0` (R77, R79). -/
def Block.clearWord (b : Block) : Block := { b with w := 0, wc := 0 }

/-- The gate of a read of a latched register: `SeqError` while nothing has been latched (R82, R99, R100, D13). -/
def readLatched (valid : Bool) (v : Word) : Effect :=
  if valid then .output v else .raise .seqError

/-- A presented word that spells no command: `IllegalCommand` when not halted, ignored when halted (R50, R114). -/
def illegalWord (s : State) : Host.Outcome State Fault Refusal :=
  actUnlessHalted (fun _ => .raise .illegalCommand) s

end Sys2Proof.Machine
end

