-- ==== Sys2Proof/Machine/Crc.lean ====
section
/-! DEFINITION. The meanings of the CRC family: CRCINIT, CRCB, RDCRC, CHK (41_crc.md R65 to R68). -/

namespace Sys2Proof.Machine

/-- CRCINIT (R65): `CRC <- 0xFFFFFFFF`, `ST.CRCOK <- 0`. -/
def execCrcinit (s : State) : Host.Outcome State Fault Refusal :=
  actUnlessHalted (fun b => .write { b with crc := crcInit, crcOk := false }) s

/-- CRCB imm (R66): `CRC <- crc_step(CRC, IMM)`, `ST.CRCOK <- 0`. -/
def execCrcb (imm : Byte) (s : State) : Host.Outcome State Fault Refusal :=
  actUnlessHalted (fun b => .write { b with crc := crcStep b.crc imm, crcOk := false }) s

/-- RDCRC (R67): `out <- CRC xor 0xFFFFFFFF`. -/
def execRdcrc (s : State) : Host.Outcome State Fault Refusal :=
  actUnlessHalted (fun b => .output (crcFinish b.crc)) s

/-- CHK (R68): `SeqError` unless `WC = 4`, then `CrcMismatch` unless the checksum equals `W`; on a match
`ST.CRCOK <- 1` and the word is consumed. `CRC` is not changed. -/
def execChk (s : State) : Host.Outcome State Fault Refusal :=
  actUnlessHalted (fun b =>
    withCompleteWord .seqError b fun stored =>
      if crcFinish b.crc = stored then .write { b.clearWord with crcOk := true }
      else .raise .crcMismatch) s

end Sys2Proof.Machine
end

