-- ==== Sys2Proof/Machine/System.lean ====
section
/-! DEFINITION. The meanings of the system commands NOP, CLR, RDST (44_system.md R105 to R107), the three that act in
the halted state too (60_exceptions.md R114). -/

namespace Sys2Proof.Machine

/-- NOP (R105): no state change, no output. -/
def execNop (s : State) : Host.Outcome State Fault Refusal := actAlways (fun b => .write b) s

/-- CLR (R106, R115): the block becomes `RESET`, whatever it was; the one command that leaves the halted state. -/
def execClr (s : State) : Host.Outcome State Fault Refusal := .next (returnToReset s)

/-- RDST (R107): `out <-` the status word; reading it does not clear the error. -/
def execRdst (s : State) : Host.Outcome State Fault Refusal := actAlways (fun b => .output (statusWord b)) s

end Sys2Proof.Machine
end

