-- ==== Sys2Proof/Machine/TypeCode.lean ====
section
/-! DEFINITION. The meanings of the type code family: LATTYP, LATTYPS, RDTYP, RDFLG (43_typecode.md R97 to R100). -/

namespace Sys2Proof.Machine

/-- LATTYP (R97): `SeqError` unless `WC = 4`; else `TYP <- W`, `TYPV <- 1` and the word is consumed. Every 32-bit
value is latched: the bytes are raw. -/
def execLattyp (s : State) : Host.Outcome State Fault Refusal :=
  actUnlessHalted (fun b =>
    withCompleteWord .seqError b fun t => .write { b.clearWord with typ := t, typv := true }) s

/-- LATTYPS (R98): `InvalidTypeCode` unless `WC = 4` and all four bytes of `W` are letters; else `TYP <- W`,
`TYPV <- 1` and the word is consumed. The reserved bit is not tested. -/
def execLattyps (s : State) : Host.Outcome State Fault Refusal :=
  actUnlessHalted (fun b =>
    withCompleteWord .invalidTypeCode b fun t =>
      if allAlpha t then .write { b.clearWord with typ := t, typv := true }
      else .raise .invalidTypeCode) s

/-- RDTYP (R99): `SeqError` if `TYPV = 0`; else `out <- TYP`. -/
def execRdtyp (s : State) : Host.Outcome State Fault Refusal :=
  actUnlessHalted (fun b => readLatched b.typv b.typ) s

/-- RDFLG (R100): `SeqError` if `TYPV = 0`; else `out <- FLG(TYP)`. -/
def execRdflg (s : State) : Host.Outcome State Fault Refusal :=
  actUnlessHalted (fun b => readLatched b.typv (flagsWord b.typ)) s

end Sys2Proof.Machine
end

