-- ==== Sys2Proof/Machine/WordLength.lean ====
section
/-! DEFINITION. The meanings of the word and length family: PUSHW, CLRW, SETAVL, LATLEN, RDLEN
(42_word_length.md R78 to R82). -/

namespace Sys2Proof.Machine

/-- PUSHW imm (R78): `W <- (W << 8) or zext_32(IMM)`, `WC <- min(WC + 1, 5)`. -/
def execPushw (imm : Byte) (s : State) : Host.Outcome State Fault Refusal :=
  actUnlessHalted (fun b => .write { b with w := pushByte b.w imm, wc := bumpCount b.wc }) s

/-- CLRW (R79): `W <- 0`, `WC <- 0`, at any `WC`. -/
def execClrw (s : State) : Host.Outcome State Fault Refusal :=
  actUnlessHalted (fun b => .write b.clearWord) s

/-- SETAVL (R80): `SeqError` unless `WC = 4`, then `TooShort` if `W < 12`; else `AVL <- W`, `AVLV <- 1` and the word
is consumed. -/
def execSetavl (s : State) : Host.Outcome State Fault Refusal :=
  actUnlessHalted (fun b =>
    withCompleteWord .seqError b fun n =>
      if n < minChunk then .raise .tooShort
      else .write { b.clearWord with avl := n, avlv := true }) s

/-- LATLEN (R81): `SeqError` unless `WC = 4`, then `Truncated` if a buffer size is set and the length does not fit
it; else `LEN <- W`, `LENV <- 1` and the word is consumed. -/
def execLatlen (s : State) : Host.Outcome State Fault Refusal :=
  actUnlessHalted (fun b =>
    withCompleteWord .seqError b fun l =>
      if b.avlv && !fits b.avl l then .raise .truncated
      else .write { b.clearWord with len := l, lenv := true }) s

/-- RDLEN (R82): `SeqError` if `LENV = 0`; else `out <- LEN`. -/
def execRdlen (s : State) : Host.Outcome State Fault Refusal :=
  actUnlessHalted (fun b => readLatched b.lenv b.len) s

end Sys2Proof.Machine
end

