-- ==== Sys2Proof/Machine/Dispatch.lean ====
section
/-! DEFINITION. One arm per command: each calls its meaning (60_exceptions.md R114: `execute(d, S)`). -/

namespace Sys2Proof.Machine

/-- What a command does to a state. -/
def exec (i : Instr) (s : State) : Host.Outcome State Fault Refusal :=
  match i with
  -- System (44_system.md)
  | .nop => Sys2Proof.Machine.execNop s
  | .clr => Sys2Proof.Machine.execClr s
  | .rdst => Sys2Proof.Machine.execRdst s
  -- CRC (41_crc.md)
  | .crcinit => Sys2Proof.Machine.execCrcinit s
  | .crcb imm => Sys2Proof.Machine.execCrcb imm s
  | .rdcrc => Sys2Proof.Machine.execRdcrc s
  | .chk => Sys2Proof.Machine.execChk s
  -- Word and length (42_word_length.md)
  | .pushw imm => Sys2Proof.Machine.execPushw imm s
  | .clrw => Sys2Proof.Machine.execClrw s
  | .setavl => Sys2Proof.Machine.execSetavl s
  | .latlen => Sys2Proof.Machine.execLatlen s
  | .rdlen => Sys2Proof.Machine.execRdlen s
  -- Type code (43_typecode.md)
  | .lattyp => Sys2Proof.Machine.execLattyp s
  | .lattyps => Sys2Proof.Machine.execLattyps s
  | .rdtyp => Sys2Proof.Machine.execRdtyp s
  | .rdflg => Sys2Proof.Machine.execRdflg s

end Sys2Proof.Machine
end

