-- ==== Sys2Proof/Machine/Ports.lean ====
section
/-! DEFINITION. The command port: what one clock cycle of the input ports does to the block (10_state.md R22,
70_reset_and_hazards.md R130, R133, 60_exceptions.md R114). -/

namespace Sys2Proof.Machine

/-- The cycle in which the host presents a command word. -/
def commandCycle (cw : CommandWord) : PortCycle where
  rst := false
  cmdValid := true
  cmd := cw

/-- The cycle in which the host presents nothing (R133); the value on `cmd` is ignored (R22). -/
def idleCycle : PortCycle where
  rst := false
  cmdValid := false
  cmd := 0

/-- The cycle in which the host asserts reset (R130); a word presented with it is ignored (R133). -/
def resetCycle : PortCycle where
  rst := true
  cmdValid := false
  cmd := 0

/-- A presented command word: decoded before anything else, then executed (R49, R114). Both the commands and the
illegal words carry the halt rule themselves. -/
def runWord (cw : CommandWord) (s : State) : Host.Outcome State Fault Refusal :=
  match decode cw with
  | .command i => exec i s
  | .illegal _ => illegalWord s

/-- One clock cycle (R130, R133): reset wins over a presented word, and a cycle without a command changes no state
and produces no output. -/
def runCycle (c : PortCycle) (s : State) : Host.Outcome State Fault Refusal :=
  if c.rst then .next (returnToReset s)
  else if c.cmdValid then runWord c.cmd s
  else .next (quiet s)

/-- The cycle the host drives next and the state that is left: the oldest pending cycle, and an idle cycle where
none is pending (R5: cycles without a command do not change the state; log entry 2). -/
def takeCycle (s : State) : PortCycle × State :=
  match s.inputs with
  | [] => (idleCycle, s)
  | c :: rest => (c, { s with inputs := rest })

/-- The next cycle of the input ports, taken and run. -/
def runNextCycle (s : State) : Host.Outcome State Fault Refusal :=
  runCycle (takeCycle s).1 (takeCycle s).2

/-- The state in which the host presents `cw` in the very next cycle, before everything else that is pending. -/
def State.presenting (cw : CommandWord) (s : State) : State :=
  { s with inputs := commandCycle cw :: s.inputs }

end Sys2Proof.Machine
end

