-- ==== Sys2Proof/Machine/Step.lean ====
section
/-! DEFINITION. The step: one clock cycle of the input ports (00_scope.md R5; log entry 1), and the placing of a
command word where the step takes its next one. -/

namespace Sys2Proof.Machine

/-- One step of the machine. -/
def step (s : State) : Host.Outcome State Fault Refusal := runNextCycle s

/-- `s` with the instruction of a table row presented next at the command port (log entry 3: the host presents every
command, the block fetches nothing, R19). -/
def State.withFetchWord (s : State) (nbits w : Nat) : State := s.presenting (tableWord nbits w)

end Sys2Proof.Machine
end

