-- ==== Sys2Proof/Machine/Chunk.lean ====
section
/-! DEFINITION. The chunk in the host's buffer and the host's side of it: the layout (20_memory.md R33, R41), what
the checksum covers (41_crc.md R69), serializing (42_word_length.md R83), the document's verdict on a buffer
(60_exceptions.md R117, R124), and the canonical command sequences (70_reset_and_hazards.md R141, R142). The block
holds none of this: no buffer is state (R30). -/

namespace Sys2Proof.Machine

/-! ### The layout of a chunk (R33) -/

/-- Positions 0 to 3: the `length` field. -/
def lengthField (c : List Byte) : List Byte := c.take 4

/-- Positions 4 to 7: the type code. -/
def typeField (c : List Byte) : List Byte := (c.drop 4).take 4

/-- Positions 4 to 7 + L: the type code and the payload, the bytes the checksum covers (R33, R69). -/
def coveredBytes (l : Nat) (c : List Byte) : List Byte := (c.drop 4).take (4 + l)

/-- Positions 8 + L to 11 + L: the `crc` field, right after the payload. -/
def crcField (l : Nat) (c : List Byte) : List Byte := (c.drop (8 + l)).take 4

/-- The big-endian word at a position of the buffer (R31). Positions past its end read as 0 and stand in no
sequence that the block accepts (log entry 12). -/
def wordAt (pos : Nat) (c : List Byte) : Word :=
  be32 (c.getD pos 0) (c.getD (pos + 1) 0) (c.getD (pos + 2) 0) (c.getD (pos + 3) 0)

/-- The declared length `L = be32(c_0, c_1, c_2, c_3)` (R141). -/
def declaredLength (c : List Byte) : Word := wordAt 0 c

/-- The size of a serialized chunk, `4 + 4 + L + 4` bytes (R41). -/
def chunkSize (l : Nat) : Nat := 4 + 4 + l + 4

/-- `be4(L) ++ be4(T) ++ d ++ be4(c)` (R83). -/
def serialize (l t : Word) (d : List Byte) (c : Word) : List Byte := be4 l ++ be4 t ++ d ++ be4 c

/-- A fresh chunk of a type and a payload: its length is the payload's, its `crc` the checksum of type and payload
(R63, R142). -/
def freshChunk (t : Word) (d : List Byte) : List Byte :=
  serialize (BitVec.ofNat 32 d.length) t d (crc32 (be4 t ++ d))

/-- The document's verdict on a buffer whose first byte is a chunk's first byte: `TooShort` before `Truncated`
before `CrcMismatch`, else accepted (R117, R124). -/
def parseVerdict (c : List Byte) : Option ErrKind :=
  let l := (declaredLength c).toNat
  if c.length < 12 then some .tooShort
  else if c.length < chunkSize l then some .truncated
  else if crc32 (coveredBytes l c) = wordAt (8 + l) c then none
  else some .crcMismatch

/-! ### Command sequences -/

/-- `PUSHS b0, b1, ...` (R54). -/
def pushBytes (bytes : List Byte) : List Instr := bytes.map .pushw

/-- `PUSH32 v` (R54). -/
def push32 (v : Word) : List Instr := pushBytes (be4 v)

/-- `CRCS b0, b1, ...` (R54). -/
def feedBytes (bytes : List Byte) : List Instr := bytes.map .crcb

/-- Verifying the chunk at the start of a buffer, without the optional reads (R141): `N` is the number of bytes in
the buffer. -/
def verifySequence (c : List Byte) : List Instr :=
  let l := (declaredLength c).toNat
  [.clr] ++ push32 (BitVec.ofNat 32 c.length) ++ [.setavl]
    ++ pushBytes (lengthField c) ++ [.latlen]
    ++ pushBytes (typeField c) ++ [.lattyp]
    ++ [.crcinit] ++ feedBytes (coveredBytes l c)
    ++ pushBytes (crcField l c) ++ [.chk]

/-- Generating the `crc` field of a type code and a payload (R142). -/
def generateSequence (t : Word) (d : List Byte) : List Instr :=
  [.crcinit] ++ feedBytes (be4 t) ++ feedBytes d ++ [.rdcrc]

/-- Checking a type code given as a readable string, before generating (R142: `PUSHS "t0t1t2t3" ; LATTYPS`). -/
def checkTypeString (chars : List Byte) : List Instr := pushBytes chars ++ [.lattyps]

end Sys2Proof.Machine
end

