-- ==== Sys2Proof/WellFormed.lean ====
section
/-! DEFINITION. Which source lines and commands are well formed: the ranges and the presence of operands
(30_encoding.md R46, R47, R53, R54). -/

namespace Sys2Proof

/-- An operand as the format asks: a format B command has one operand, a number 0 to 255; a format N command has
none (R47, R53). -/
def operandWf : Format → Option Nat → Bool
  | .b, some v => decide (v ≤ 255)
  | .b, none => false
  | .n, none => true
  | .n, some _ => false

/-- A source line is well formed (R53, R54): operands as the format asks, a `.word` of 16 bits, a `PUSH32` of
32 bits, every listed byte 0 to 255. -/
def Line.wf : Line → Bool
  | .command m operand => operandWf m.format operand
  | .word cw => decide (cw < 65536)
  | .push32 v => decide (v < 4294967296)
  | .pushs bytes => bytes.all fun v => decide (v ≤ 255)
  | .crcs bytes => bytes.all fun v => decide (v ≤ 255)

/-- A command is well formed when its source line is. Since `Instr` carries its operand as a byte and only where
format B asks for one (R46, R47), every command is: Laws/Decode.lean proves it. -/
def Instr.wf (i : Instr) : Bool := i.line.wf

end Sys2Proof
end

