-- ==== Sys2Proof/Machine/Assembler.lean ====
section
/-! DEFINITION. The spec's assembler text (30_encoding.md R53, R54): a line of characters read into a `Line`, and a
line expanded into the command words it stands for. The block sees only the words. Where R53 is silent on the
spelling, log entry 11 names what is taken. -/

namespace Sys2Proof.Machine

/-! ### Lines to command words -/

/-- The command of a mnemonic; the operand is used in format B only (R46). -/
def commandOf (m : Mnemonic) (imm : Byte) : Instr :=
  match m with
  | .nop => .nop
  | .clr => .clr
  | .rdst => .rdst
  | .crcinit => .crcinit
  | .crcb => .crcb imm
  | .rdcrc => .rdcrc
  | .chk => .chk
  | .pushw => .pushw imm
  | .clrw => .clrw
  | .setavl => .setavl
  | .latlen => .latlen
  | .rdlen => .rdlen
  | .lattyp => .lattyp
  | .lattyps => .lattyps
  | .rdtyp => .rdtyp
  | .rdflg => .rdflg

/-- The words of a line whose numbers are in range (R53, R54). -/
def lineWords : Line → List CommandWord
  | .command m operand => [encode (commandOf m (BitVec.ofNat 8 (operand.getD 0)))]
  | .word cw => [BitVec.ofNat 16 cw]
  | .push32 v => (push32 (BitVec.ofNat 32 v)).map encode
  | .pushs bytes => (pushBytes (bytes.map (BitVec.ofNat 8))).map encode
  | .crcs bytes => (feedBytes (bytes.map (BitVec.ofNat 8))).map encode

/-- The words of a line, refused where it is not well formed. -/
def assembleLine (l : Line) : Option (List CommandWord) :=
  if l.wf then some (lineWords l) else none

/-! ### Characters to tokens -/

/-- The tokens of a line: a run of plain characters, a character in single quotes, a string, a comma. -/
inductive Token where
  | plain (cs : List Char)
  | char (c : Char)
  | string (cs : List Char)
  | comma
  deriving DecidableEq, Repr

/-- Where the reader stands in a line; the characters read so far are held newest first. -/
inductive LexMode where
  | plain (soFar : List Char)
  | dash (soFar : List Char)
  | quote
  | quoted (c : Char)
  | string (soFar : List Char)
  deriving DecidableEq, Repr

/-- The printable ASCII characters (R53).
DESIGN CHOICE (log entry 11): R53 does not say whether the space between single quotes is one of them; here it is, so
they are 0x20 to 0x7E. -/
def isPrintable (c : Char) : Bool := decide (0x20 ≤ c.toNat) && decide (c.toNat ≤ 0x7E)

/-- The plain token that ends here, if any characters stand in it. -/
def endPlain (soFar : List Char) : List Token :=
  if soFar = [] then [] else [.plain soFar.reverse]

/-- The tokens of the rest of a line; `--` outside quotes starts a comment that runs to its end (R53).
DESIGN CHOICE (log entry 11): R53 does not say where white space must stand. Spaces and tabs end a plain token; beside
a quoted character, a string, a comma or a comment mark none is asked for. In quotes no character is an escape: a
single quote may stand between single quotes, and a double quote ends a string. -/
def lexFrom : LexMode → List Char → Option (List Token)
  | .plain acc, [] => some (endPlain acc)
  | .plain acc, c :: cs =>
    if c = ' ' ∨ c = '\t' then (lexFrom (.plain []) cs).map (endPlain acc ++ ·)
    else if c = '-' then lexFrom (.dash acc) cs
    else if c = ',' then (lexFrom (.plain []) cs).map (endPlain acc ++ .comma :: ·)
    else if c = '\'' then (lexFrom .quote cs).map (endPlain acc ++ ·)
    else if c = '"' then (lexFrom (.string []) cs).map (endPlain acc ++ ·)
    else lexFrom (.plain (c :: acc)) cs
  | .dash _, [] => none
  | .dash acc, c :: _ => if c = '-' then some (endPlain acc) else none
  | .quote, [] => none
  | .quote, c :: cs => if isPrintable c then lexFrom (.quoted c) cs else none
  | .quoted _, [] => none
  | .quoted q, c :: cs => if c = '\'' then (lexFrom (.plain []) cs).map (.char q :: ·) else none
  | .string _, [] => none
  | .string acc, c :: cs =>
    if c = '"' then (lexFrom (.plain []) cs).map (.string acc.reverse :: ·)
    else if isPrintable c then lexFrom (.string (c :: acc)) cs
    else none

/-! ### Tokens to lines -/

/-- The value of a hexadecimal digit. -/
def hexDigit (c : Char) : Option Nat :=
  if '0' ≤ c ∧ c ≤ '9' then some (c.toNat - 0x30)
  else if 'A' ≤ c ∧ c ≤ 'F' then some (c.toNat - 0x41 + 10)
  else if 'a' ≤ c ∧ c ≤ 'f' then some (c.toNat - 0x61 + 10)
  else none

/-- The number a row of digits spells in a base, from the value of the digits before it. -/
def digitsFrom (base : Nat) : Nat → List Char → Option Nat
  | v, [] => some v
  | v, c :: cs =>
    match hexDigit c with
    | some d => if d < base then digitsFrom base (v * base + d) cs else none
    | none => none

/-- A number in hexadecimal after `0x`, or in decimal (R53).
DESIGN CHOICE (log entry 11): any number of digits, leading zeros included, and hexadecimal digits of either case. -/
def number : List Char → Option Nat
  | '0' :: 'x' :: c :: cs => digitsFrom 16 0 (c :: cs)
  | c :: cs => digitsFrom 10 0 (c :: cs)
  | [] => none

/-- An operand: a number, or a printable character in single quotes, meaning its byte value (R53). -/
def operandOf : Token → Option Nat
  | .plain cs => number cs
  | .char c => some c.toNat
  | .string _ => none
  | .comma => none

/-- The numbers of a list with commas between them (R54).
DESIGN CHOICE (log entry 11): R54 says 'nothing when n = 0' of the string form only, so a list holds at least one
number and a bare PUSHS or CRCS is refused; an element is a number and not a quoted character. -/
def numberList : List Token → Option (List Nat)
  | [.plain cs] => (number cs).map fun v => [v]
  | .plain cs :: .comma :: rest =>
    match number cs with
    | some v => (numberList rest).map (v :: ·)
    | none => none
  | _ => none

/-- The bytes of a PUSHS or a CRCS: a string, or a list of byte numbers (R54). -/
def byteList : List Token → Option (List Nat)
  | [.string cs] => some (cs.map Char.toNat)
  | ts => numberList ts

/-- The mnemonics as they are written (R48, R53). -/
def mnemonicNames : List (List Char × Mnemonic) :=
  [(['N', 'O', 'P'], .nop), (['C', 'L', 'R'], .clr), (['R', 'D', 'S', 'T'], .rdst),
   (['C', 'R', 'C', 'I', 'N', 'I', 'T'], .crcinit), (['C', 'R', 'C', 'B'], .crcb),
   (['R', 'D', 'C', 'R', 'C'], .rdcrc), (['C', 'H', 'K'], .chk),
   (['P', 'U', 'S', 'H', 'W'], .pushw), (['C', 'L', 'R', 'W'], .clrw),
   (['S', 'E', 'T', 'A', 'V', 'L'], .setavl), (['L', 'A', 'T', 'L', 'E', 'N'], .latlen),
   (['R', 'D', 'L', 'E', 'N'], .rdlen), (['L', 'A', 'T', 'T', 'Y', 'P'], .lattyp),
   (['L', 'A', 'T', 'T', 'Y', 'P', 'S'], .lattyps), (['R', 'D', 'T', 'Y', 'P'], .rdtyp),
   (['R', 'D', 'F', 'L', 'G'], .rdflg)]

/-- The line of a mnemonic and the tokens after it: nothing, or one operand (R53). -/
def commandLine (name : List Char) (operands : List Token) : Option Line :=
  match (mnemonicNames.find? fun row => row.1 == name).map Prod.snd, operands with
  | some m, [] => some (.command m none)
  | some m, [t] => (operandOf t).map fun v => .command m (some v)
  | _, _ => none

/-- The line of a row of tokens (R53, R54).
DESIGN CHOICE (log entry 11): a line with no token stands for no step; `.word` takes exactly four hexadecimal digits;
the operand of PUSH32 is a number in either base of R53. -/
def lineOf : List Token → Option (List Line)
  | [] => some []
  | [.plain ['.', 'w', 'o', 'r', 'd'], .plain ['0', 'x', a, b, c, d]] =>
    (digitsFrom 16 0 [a, b, c, d]).map fun v => [.word v]
  | [.plain ['P', 'U', 'S', 'H', '3', '2'], .plain cs] => (number cs).map fun v => [.push32 v]
  | .plain ['P', 'U', 'S', 'H', 'S'] :: ts => (byteList ts).map fun bs => [.pushs bs]
  | .plain ['C', 'R', 'C', 'S'] :: ts => (byteList ts).map fun bs => [.crcs bs]
  | .plain name :: ts => (commandLine name ts).map fun l => [l]
  | _ => none

/-- One line of text, read (R53). -/
def parseLine (text : List Char) : Option (List Line) :=
  match lexFrom (.plain []) text with
  | some ts => lineOf ts
  | none => none

/-- The words of one line of text, refused where the text or a number in it is not well formed. -/
def assembleText (text : List Char) : Option (List CommandWord) :=
  match parseLine text with
  | some ls => (ls.mapM assembleLine).map List.flatten
  | none => none

/-- The words of a program, one line of text after the other (R53: one command per line). -/
def assembleProgram (lines : List (List Char)) : Option (List CommandWord) :=
  (lines.mapM assembleText).map List.flatten

end Sys2Proof.Machine
end

