-- ==== Sys2Proof/Machine/Run.lean ====
section
/-! DEFINITION. Runs of command words (00_scope.md R6): the host presents words in order, one a step. -/

namespace Sys2Proof.Machine

/-- One step in which the host presents `cw` (R5: `step(S, cw)`). -/
def present (cw : CommandWord) (s : State) : Host.Outcome State Fault Refusal := step (s.presenting cw)

/-- The end of a run: the words presented one after the other (R6: `S_n`). -/
def runWords : List CommandWord → State → Host.Outcome State Fault Refusal
  | [], s => .next s
  | cw :: rest, s =>
    match present cw s with
    | .next t => runWords rest t
    | stopped => stopped

/-- The outputs of a run that are `some v`, in order, each with its index counted from `i` (R6). The index is
notation of the run and no state of the block. -/
def runOutputs (i : Nat) : List CommandWord → State → List (Nat × Word)
  | [], _ => []
  | cw :: rest, s =>
    match present cw s with
    | .next t => (t.out.map fun v => (i, v)).toList ++ runOutputs (i + 1) rest t
    | _ => []

/-- A run of commands: the run of their words (R54: a command is one step). -/
def runCommands (cs : List Instr) (s : State) : Host.Outcome State Fault Refusal :=
  runWords (cs.map Sys2Proof.encode) s

/-- The outputs of a run of commands. -/
def commandOutputs (cs : List Instr) (s : State) : List (Nat × Word) :=
  runOutputs 0 (cs.map Sys2Proof.encode) s

end Sys2Proof.Machine
end

