-- ==== Sys2Proof/Safety.lean ====
section
/-! DEFINITION. What counts as safe: the places a fault is raised, written from their own table (60_exceptions.md
R111), the invariant of the block, and a run that did not fault (00_scope.md R6). -/

namespace Sys2Proof.Machine

/-- The error a command raises in a block that is not halted, the conditions in the order of the table of R111, in
numbers and not in the operations of the meanings. -/
def faultTable (i : Instr) (b : Block) : Option ErrKind :=
  match i with
  | .setavl =>
    if b.wc.toNat ≠ 4 then some .seqError
    else if b.w.toNat < 12 then some .tooShort
    else none
  | .latlen =>
    if b.wc.toNat ≠ 4 then some .seqError
    else if b.avlv = true ∧ b.avl.toNat < b.w.toNat + 12 then some .truncated
    else none
  | .rdlen => if b.lenv = false then some .seqError else none
  | .lattyp => if b.wc.toNat ≠ 4 then some .seqError else none
  | .lattyps =>
    if b.wc.toNat ≠ 4 then some .invalidTypeCode
    else if ∃ k : Fin 4, isAlpha (byteOf k b.w) = false then some .invalidTypeCode
    else none
  | .rdtyp => if b.typv = false then some .seqError else none
  | .rdflg => if b.typv = false then some .seqError else none
  | .chk =>
    if b.wc.toNat ≠ 4 then some .seqError
    else if b.crc ^^^ 0xFFFFFFFF ≠ b.w then some .crcMismatch
    else none
  | .nop | .clr | .rdst | .crcinit | .crcb _ | .rdcrc | .pushw _ | .clrw => none

/-- What a latched error says of the registers: its cause still stands in them (R111, R113, R125: "The values that
caused the fault are still in the registers"). -/
abbrev Block.causeStands (b : Block) : Prop :=
  (b.err = 1 → b.wc = 4 ∧ b.w.toNat < 12) ∧
  (b.err = 2 → b.wc = 4 ∧ b.avlv = true ∧ b.avl.toNat < b.w.toNat + 12) ∧
  (b.err = 3 → b.wc = 4 ∧ b.crc ^^^ 0xFFFFFFFF ≠ b.w) ∧
  (b.err = 4 → b.wc ≠ 4 ∨ allAlpha b.w = false) ∧
  (b.err = 5 → b.wc ≠ 4 ∨ b.lenv = false ∨ b.typv = false)

/-- The invariant of the block: `ST.ERR` is a code of R110 and `WC` at most 5 (U12); `W` holds no more than the
bytes pushed (R12); a register that has not been latched is 0 (R13 to R15, R20); a buffer size that is set is at
least 12 (R15); and the cause of a latched error stands in the registers. -/
abbrev Block.Inv (b : Block) : Prop :=
  b.err.toNat ≤ 6 ∧
  b.wc.toNat ≤ 5 ∧
  (b.wc.toNat < 4 → b.w.toNat < 256 ^ b.wc.toNat) ∧
  (b.lenv = false → b.len = 0) ∧
  (b.typv = false → b.typ = 0) ∧
  (b.avlv = false → b.avl = 0) ∧
  (b.avlv = true → 12 ≤ b.avl.toNat) ∧
  b.causeStands

/-- A run that faulted (R6): the error at its end is not 0. -/
abbrev State.faulted (s : State) : Prop := s.block.err ≠ 0

/-- The safe end of a run that verified a chunk (R141): no error, and the checksum matched. -/
abbrev State.verified (s : State) : Prop := s.block.err = 0 ∧ s.block.crcOk = true

end Sys2Proof.Machine
end

