-- ==== Sys2Proof/Certificates/Slice0/Obligations.lean ====
section
/-! DEFINITION. The statements for the provers, each formalising rules of spec/. A next state is written out as a
record update, so that everything it does not name is unchanged: each such equation is the command's frame too. -/

open Sys2Proof Sys2Proof.Machine

/-! ### Encoding -/

/-- A few words written out from the opcode map and its reserved words (30_encoding.md R48, R50, R53): a sanity
statement. -/
def Obligations.WrittenWordsDecode : Prop :=
  decode 0x0000#16 = .command .nop ∧
  decode 0x0200#16 = .command .rdst ∧
  decode 0x1152#16 = .command (.crcb 0x52#8) ∧
  decode 0x1300#16 = .command .chk ∧
  decode 0x20FF#16 = .command (.pushw 0xFF#8) ∧
  decode 0x2300#16 = .command .latlen ∧
  decode 0x3100#16 = .command .lattyps ∧
  (decode 0x0001#16).command? = none ∧
  (decode 0x1001#16).command? = none ∧
  (decode 0x0300#16).command? = none ∧
  (decode 0xFFFF#16).command? = none

/-- Every command, with every operand, is read back from its own word (R45, R47, R48, R49). -/
def Obligations.DecodeOfEncodeIsTheCommand : Prop :=
  ∀ i : Instr, decode (encode i) = .command i

/-- A word spells a command exactly when it matches the command's row under the row's mask (R46): 0xFF00 in format
B, 0xFFFF in format N, `match = OPC << 8`; the operand of format B is the word's low byte. -/
def Obligations.WordSpellsCommandExactlyByItsRow : Prop :=
  (∀ i : Instr, i.rowMatch = i.opcode.setWidth 16 <<< 8 ∧
    i.rowMask = (match i with | .crcb _ | .pushw _ => 0xFF00#16 | _ => 0xFFFF#16)) ∧
  ∀ (cw : CommandWord) (i : Instr),
    decode cw = .command i ↔
      cw &&& i.rowMask = i.rowMatch ∧
      (match i with
        | .crcb imm | .pushw imm => imm = cw.extractLsb' 0 8
        | _ => True)

/-- Of the 65536 command words, 526 spell a command and 65010 are ILLEGAL (R49). -/
def Obligations.CommandWordCount : Prop :=
  Nat.card { cw : CommandWord // ∃ i, decode cw = .command i } = 526 ∧
  Nat.card { cw : CommandWord // ∀ i, decode cw ≠ .command i } = 65010

/-- The assembler text of every command assembles to its word, `(OPC << 8) or IMM` (R53), and PUSH32, PUSHS and CRCS
expand to the pushes and feeds of R54. -/
def Obligations.LinesAssembleToTheirWords : Prop :=
  (∀ i : Instr, assembleLine i.line = some [(i.opcode.setWidth 16 <<< 8) ||| i.operand.setWidth 16]) ∧
  (∀ cw : CommandWord, assembleLine (.word cw.toNat) = some [cw]) ∧
  (∀ v : Word, assembleLine (.push32 v.toNat) =
    some [encode (.pushw (v.extractLsb' 24 8)), encode (.pushw (v.extractLsb' 16 8)),
      encode (.pushw (v.extractLsb' 8 8)), encode (.pushw (v.extractLsb' 0 8))]) ∧
  (∀ bs : List Byte, assembleLine (.pushs (bs.map BitVec.toNat)) = some (bs.map fun b => encode (.pushw b))) ∧
  (∀ bs : List Byte, assembleLine (.crcs (bs.map BitVec.toNat)) = some (bs.map fun b => encode (.crcb b)))

/-! ### Reset, the command port, the step -/

/-- What reset leaves (R20): every field of the block at its value, `q_valid = 0` and `fault = 0`; and CLR and the
reset input both reach that state of the block, whatever it was. -/
def Obligations.ResetAndClrReachTheResetState : Prop :=
  State.reset.block =
    { crc := 0xFFFFFFFF, w := 0, wc := 0, len := 0, lenv := false, typ := 0, typv := false,
      avl := 0, avlv := false, err := 0, crcOk := false } ∧
  State.reset.qValid = false ∧ State.reset.faultPort = false ∧
  (∀ s : State, exec .clr s = .next { s with block := State.reset.block, out := none }) ∧
  (∀ (s : State) (c : PortCycle) (rest : List PortCycle), s.inputs = c :: rest → c.rst = true →
    step s = .next { block := State.reset.block, inputs := rest, out := none })

/-- A cycle with `rst = 1` resets and ignores the word presented with it; a cycle with neither `rst` nor `cmd_valid`
changes no register and has no output, whatever stands on `cmd` (R130, R133). That such cycles are steps of the
model, and that they wait in `inputs`, is the model's choice (log entry 1). -/
def Obligations.ResetAndIdleCycles : Prop :=
  (∀ (s : State) (valid : Bool) (cw : CommandWord) (rest : List PortCycle),
    s.inputs = { rst := true, cmdValid := valid, cmd := cw } :: rest →
    step s = .next { block := Block.reset, inputs := rest, out := none }) ∧
  (∀ (s : State) (cw : CommandWord) (rest : List PortCycle),
    s.inputs = { rst := false, cmdValid := false, cmd := cw } :: rest →
    step s = .next { s with inputs := rest, out := none })

/-- With no cycle pending the step is an idle cycle: the model's choice, log entry 2 (R5: "Clock cycles in which the
host presents no command do not change the state"). -/
def Obligations.NoPendingCycleIsAnIdleCycle : Prop :=
  ∀ s : State, s.inputs = [] → step s = .next { s with out := none }

/-- When the next cycle presents a word that decodes to a command, the step is `exec` of that command, the cycle
taken (R49, R114). The pending cycles are the model's (log entry 1). -/
def Obligations.StepRunsTheDecodedCommand : Prop :=
  ∀ (s : State) (cw : CommandWord) (rest : List PortCycle) (i : Instr),
    s.inputs = { rst := false, cmdValid := true, cmd := cw } :: rest →
    decode cw = .command i →
    step s = exec i { s with inputs := rest }

/-- The placing of a table word: the next step runs the command it decodes to, from any state, and leaves the
pending cycles as they were (log entry 3). -/
def Obligations.WithFetchWordRunsNext : Prop :=
  ∀ (s : State) (w : Nat) (i : Instr), decodeTableWord 16 w = some i →
    step (s.withFetchWord 16 w) = exec i s

/-- A presented reserved word raises `IllegalCommand`, code 6, and nothing else, in a block that is not halted; a
halted block ignores it (R50, R114). The pending cycles are the model's (log entry 1). -/
def Obligations.ReservedWordRaisesIllegalCommand : Prop :=
  ∀ (s : State) (cw : CommandWord) (rest : List PortCycle),
    s.inputs = { rst := false, cmdValid := true, cmd := cw } :: rest →
    (∀ i, decode cw ≠ .command i) →
    (s.block.err = 0 →
      step s = .next { block := { s.block with err := 6 }, inputs := rest, out := none }) ∧
    (s.block.err ≠ 0 → step s = .next { s with inputs := rest, out := none })

/-- The halted part of the step function (R114): CLR resets, RDST answers the status word, and every other word,
NOP and the reserved words among them, does nothing. The pending cycles are the model's (log entry 1). -/
def Obligations.HaltedBlockObeysOnlyClrAndRdst : Prop :=
  ∀ (s : State) (cw : CommandWord) (rest : List PortCycle),
    s.inputs = { rst := false, cmdValid := true, cmd := cw } :: rest →
    s.block.err ≠ 0 →
    step s = .next
      (if cw = 0x0100#16 then { block := Block.reset, inputs := rest, out := none }
       else if cw = 0x0200#16 then { s with inputs := rest, out := some (statusWord s.block) }
       else { s with inputs := rest, out := none })

/-- The step is total (R5): it answers a next state from every state, and takes the oldest pending cycle, which is
the model's choice (log entry 1). -/
def Obligations.EveryStepAnswersNext : Prop :=
  ∀ s : State, ∃ t, step s = .next t ∧ t.inputs = s.inputs.tail

/-- Words waiting at the ports run exactly as the same words presented one by one (R6, R36); that they wait in
`inputs` is the model's choice (log entry 1). -/
def Obligations.PendingWordsRunInOrder : Prop :=
  ∀ (cws : List CommandWord) (s : State), s.inputs = [] →
    Host.Core.run Sys2Proof.core cws.length { s with inputs := cws.map commandCycle } = runWords cws s

/-! ### Functions -/

/-- The byte step (41_crc.md R61): the byte enters bits 7:0, then eight shift-and-XOR iterations with 0xEDB88320.
The polynomial's reversed form and the algorithm are from general knowledge, as R61 itself marks. -/
def Obligations.CrcStepIsEightIterations : Prop :=
  ∀ (c : Word) (b : Byte),
    crcStep c b =
      (fun x : Word => if x.getLsbD 0 = true then (x >>> 1) ^^^ 0xEDB88320#32 else x >>> 1)^[8]
        (c ^^^ b.setWidth 32)

/-- The fold over a byte string and the finished checksum (R62, R63): nothing for the empty string, one byte after
the other, and the strings of two feeds joined. R62 marks the second law as derived. -/
def Obligations.CrcFoldsInOrderAndSplits : Prop :=
  (∀ c, crcOf c [] = c) ∧
  (∀ c b m, crcOf c (b :: m) = crcOf (crcStep c b) m) ∧
  (∀ c a b, crcOf c (a ++ b) = crcOf (crcOf c a) b) ∧
  (∀ m, crc32 m = crcOf 0xFFFFFFFF m ^^^ 0xFFFFFFFF)

/-- The table form computes the byte step (R64 a), a theorem about R61 that the spec marks as from general
knowledge. -/
def Obligations.CrcTableFormAgrees : Prop :=
  ∀ (c : Word) (b : Byte),
    crcStep c b = (c >>> 8) ^^^ crcRounds 8 (((c ^^^ b.setWidth 32).extractLsb' 0 8).setWidth 32)

/-- The form with the most significant bit first and the polynomial 0x04C11DB7 computes the same function (R64 b),
and the register `CRC` is its remainder reversed at every point: from any start, after any bytes. The spec marks
R64 as from general knowledge. -/
def Obligations.CrcMsbFirstFormAgrees : Prop :=
  (∀ r m, crcOf r.reverse m = (msbOf r m).reverse) ∧
  (∀ m, crc32 m = (msbOf 0xFFFFFFFF m).reverse ^^^ 0xFFFFFFFF)

/-- Flipping one bit of a byte string changes its checksum, at any length, so a CHK against the stored checksum of
the one string after the other was fed raises `CrcMismatch` (R70 a). That it holds at every length is the spec's own
note from general knowledge. -/
def Obligations.SingleBitFlipIsDetected : Prop :=
  ∀ (pre post : List Byte) (b : Byte) (k : Nat), k < 8 →
    crc32 (pre ++ (b ^^^ (1#8 <<< k)) :: post) ≠ crc32 (pre ++ b :: post) ∧
    ∀ s : State, s.block.err = 0 → s.block.wc = 4 →
      s.block.crc = crcOf 0xFFFFFFFF (pre ++ (b ^^^ (1#8 <<< k)) :: post) →
      s.block.w = crc32 (pre ++ b :: post) →
      exec .chk s = .next { s with block := { s.block with err := 3 }, out := none }

/-- The big-endian word (42_word_length.md R75): the value of four bytes, and every value from exactly one four-byte
string. -/
def Obligations.Be32IsTheBigEndianNumber : Prop :=
  (∀ b0 b1 b2 b3 : Byte,
    (be32 b0 b1 b2 b3).toNat = b0.toNat * 2 ^ 24 + b1.toNat * 2 ^ 16 + b2.toNat * 2 ^ 8 + b3.toNat) ∧
  (∀ v : Word, ∃ b0 b1 b2 b3 : Byte, be32 b0 b1 b2 b3 = v) ∧
  (∀ a0 a1 a2 a3 b0 b1 b2 b3 : Byte, be32 a0 a1 a2 a3 = be32 b0 b1 b2 b3 →
    a0 = b0 ∧ a1 = b1 ∧ a2 = b2 ∧ a3 = b3)

/-- `be4` gives the four bytes, most significant first, and is the inverse of `be32` (R76, which marks the inverse
laws as derived). -/
def Obligations.Be4InvertsBe32 : Prop :=
  (∀ v : Word, be4 v = [v.extractLsb' 24 8, v.extractLsb' 16 8, v.extractLsb' 8 8, v.extractLsb' 0 8]) ∧
  (∀ v : Word, be32 (v.extractLsb' 24 8) (v.extractLsb' 16 8) (v.extractLsb' 8 8) (v.extractLsb' 0 8) = v) ∧
  (∀ b0 b1 b2 b3 : Byte, be4 (be32 b0 b1 b2 b3) = [b0, b1, b2, b3])

/-- The bound (R84): the sum does not wrap, and no length fits a buffer below 12 bytes. -/
def Obligations.FitsIsTheUnwrappedBound : Prop :=
  (∀ n l : Word, fits n l = true ↔ l.toNat + 12 ≤ n.toNat) ∧
  (∀ n l : Word, n.toNat < 12 → fits n l = false)

/-- The letter classes (43_typecode.md R90), whose ranges the spec marks as from general knowledge. -/
def Obligations.LetterClassesAreTheAsciiRanges : Prop :=
  (∀ b : Byte, isUpper b = true ↔ 0x41 ≤ b.toNat ∧ b.toNat ≤ 0x5A) ∧
  (∀ b : Byte, isLower b = true ↔ 0x61 ≤ b.toNat ∧ b.toNat ≤ 0x7A) ∧
  (∀ b : Byte, isAlpha b = true ↔ isUpper b = true ∨ isLower b = true)

/-- The flags word bit by bit (R91 to R96): each property is the case of one byte, `ALPHA` all four letters, `VALID`
both, and 0 above bit 5. The letter classes are those of R90. -/
def Obligations.FlagsWordBitByBit : Prop :=
  ∀ t : Word,
    (flagsWord t).getLsbD 0 = isUpper (t.extractLsb' 24 8) ∧
    (flagsWord t).getLsbD 1 = isUpper (t.extractLsb' 16 8) ∧
    (flagsWord t).getLsbD 2 = isUpper (t.extractLsb' 8 8) ∧
    (flagsWord t).getLsbD 3 = isLower (t.extractLsb' 0 8) ∧
    (flagsWord t).getLsbD 4 =
      (isAlpha (t.extractLsb' 24 8) && isAlpha (t.extractLsb' 16 8) &&
        isAlpha (t.extractLsb' 8 8) && isAlpha (t.extractLsb' 0 8)) ∧
    (flagsWord t).getLsbD 5 = ((flagsWord t).getLsbD 4 && (flagsWord t).getLsbD 2) ∧
    ∀ i, 6 ≤ i → (flagsWord t).getLsbD i = false

/-- The bit view (R102): where all four bytes are letters, the properties are bits 29, 21, 13 and 5 of `TYP`. The
spec marks it as derived and from general knowledge. -/
def Obligations.LettersCarryTheirFlagsInBitFive : Prop :=
  ∀ t : Word, allAlpha t = true →
    isCritical t = !t.getLsbD 29 ∧ isPublic t = !t.getLsbD 21 ∧
    isReservedBitValid t = !t.getLsbD 13 ∧ isSafeToCopy t = t.getLsbD 5

/-! ### The system commands -/

/-- NOP (44_system.md R105): its one word, no change in any state, halted or not, and the same effect on the block
as a cycle with `cmd_valid = 0`. -/
def Obligations.NopChangesNothing : Prop :=
  (∀ cw : CommandWord, decode cw = .command .nop ↔ cw = 0x0000#16) ∧
  (∀ s : State, exec .nop s = .next { s with out := none }) ∧
  (∀ (s : State) (cw : CommandWord) (rest : List PortCycle),
    step { s with inputs := { rst := false, cmdValid := true, cmd := 0x0000#16 } :: rest } =
    step { s with inputs := { rst := false, cmdValid := false, cmd := cw } :: rest })

/-- CLR (R106): its word, the whole block at its reset values from every state, halted or not, and no other command
clears a latched error. -/
def Obligations.ClrResetsTheWholeBlock : Prop :=
  decode 0x0100#16 = .command .clr ∧
  (∀ s : State, exec .clr s = .next
    { s with
      block := { crc := 0xFFFFFFFF, w := 0, wc := 0, len := 0, lenv := false, typ := 0, typv := false,
                 avl := 0, avlv := false, err := 0, crcOk := false }
      out := none }) ∧
  (∀ (i : Instr) (s t : State), s.block.err ≠ 0 → exec i s = .next t → t.block.err = 0 → i = .clr)

/-- RDST (R107): its word, and in every state, halted or not, the status word field by field, with no register
changed. -/
def Obligations.RdstReadsTheStatusFields : Prop :=
  decode 0x0200#16 = .command .rdst ∧
  ∀ s : State, ∃ v : Word,
    exec .rdst s = .next { s with out := some v } ∧
    v.extractLsb' 0 4 = s.block.err ∧
    v.getLsbD 4 = s.block.crcOk ∧
    v.getLsbD 5 = s.block.lenv ∧
    v.getLsbD 6 = s.block.typv ∧
    v.getLsbD 7 = s.block.avlv ∧
    v.extractLsb' 8 3 = s.block.wc ∧
    v.extractLsb' 11 21 = 0#21

/-! ### The CRC family -/

/-- CRCINIT (41_crc.md R65): its word and no other, `CRC` at 0xFFFFFFFF and `ST.CRCOK` cleared. -/
def Obligations.CrcinitStartsAChecksum : Prop :=
  (∀ cw : CommandWord, decode cw = .command .crcinit ↔ cw = 0x1000#16) ∧
  ∀ s : State, s.block.err = 0 →
    exec .crcinit s = .next
      { s with block := { s.block with crc := 0xFFFFFFFF, crcOk := false }, out := none }

/-- CRCB (R66): its words, the byte step of R61 on `CRC`, and `ST.CRCOK` cleared, for every operand. -/
def Obligations.CrcbFeedsOneByte : Prop :=
  (∀ imm : Byte, decode (0x1100#16 ||| imm.setWidth 16) = .command (.crcb imm)) ∧
  ∀ (imm : Byte) (s : State), s.block.err = 0 →
    exec (.crcb imm) s = .next
      { s with block := { s.block with crc := crcStep s.block.crc imm, crcOk := false }, out := none }

/-- RDCRC (R67): its word, `CRC xor 0xFFFFFFFF` output, no register changed. -/
def Obligations.RdcrcReadsTheFinishedChecksum : Prop :=
  decode 0x1200#16 = .command .rdcrc ∧
  ∀ s : State, s.block.err = 0 →
    exec .rdcrc s = .next { s with out := some (s.block.crc ^^^ 0xFFFFFFFF) }

/-- CHK (R68): its word; `SeqError` first, then `CrcMismatch`; on a match `ST.CRCOK` is set and the word consumed,
with `CRC` unchanged. -/
def Obligations.ChkComparesTheStoredChecksum : Prop :=
  decode 0x1300#16 = .command .chk ∧
  ∀ s : State, s.block.err = 0 →
    (s.block.wc ≠ 4 →
      exec .chk s = .next { s with block := { s.block with err := 5 }, out := none }) ∧
    (s.block.wc = 4 → s.block.crc ^^^ 0xFFFFFFFF ≠ s.block.w →
      exec .chk s = .next { s with block := { s.block with err := 3 }, out := none }) ∧
    (s.block.wc = 4 → s.block.crc ^^^ 0xFFFFFFFF = s.block.w →
      exec .chk s = .next
        { s with block := { s.block with crcOk := true, w := 0, wc := 0 }, out := none })

/-! ### The word and length family -/

/-- PUSHW (42_word_length.md R78): its words, the shift into `W`, and the count that saturates at 5, for every
operand and every count. -/
def Obligations.PushwShiftsOneByteIn : Prop :=
  (∀ imm : Byte, decode (0x2000#16 ||| imm.setWidth 16) = .command (.pushw imm)) ∧
  ∀ (imm : Byte) (s : State), s.block.err = 0 →
    exec (.pushw imm) s = .next
      { s with
        block := { s.block with
          w := (s.block.w <<< 8) ||| imm.setWidth 32
          wc := if s.block.wc.toNat < 5 then s.block.wc + 1 else 5 }
        out := none }

/-- CLRW (R79): its word, `W` and `WC` cleared at any count, nothing else touched. -/
def Obligations.ClrwClearsTheAssembler : Prop :=
  decode 0x2100#16 = .command .clrw ∧
  ∀ s : State, s.block.err = 0 →
    exec .clrw s = .next { s with block := { s.block with w := 0, wc := 0 }, out := none }

/-- SETAVL (R80): its word; `SeqError` first, then `TooShort` below 12; else `AVL` and `AVLV` set and the word
consumed. -/
def Obligations.SetavlSetsTheBufferSize : Prop :=
  decode 0x2200#16 = .command .setavl ∧
  ∀ s : State, s.block.err = 0 →
    (s.block.wc ≠ 4 →
      exec .setavl s = .next { s with block := { s.block with err := 5 }, out := none }) ∧
    (s.block.wc = 4 → s.block.w.toNat < 12 →
      exec .setavl s = .next { s with block := { s.block with err := 1 }, out := none }) ∧
    (s.block.wc = 4 → 12 ≤ s.block.w.toNat →
      exec .setavl s = .next
        { s with block := { s.block with avl := s.block.w, avlv := true, w := 0, wc := 0 }, out := none })

/-- LATLEN (R81): its word; `SeqError` first, then `Truncated` when a buffer size is set and the chunk does not fit
it; else `LEN` and `LENV` set and the word consumed. -/
def Obligations.LatlenLatchesTheLength : Prop :=
  decode 0x2300#16 = .command .latlen ∧
  ∀ s : State, s.block.err = 0 →
    (s.block.wc ≠ 4 →
      exec .latlen s = .next { s with block := { s.block with err := 5 }, out := none }) ∧
    (s.block.wc = 4 → s.block.avlv = true → s.block.avl.toNat < s.block.w.toNat + 12 →
      exec .latlen s = .next { s with block := { s.block with err := 2 }, out := none }) ∧
    (s.block.wc = 4 → (s.block.avlv = true → s.block.w.toNat + 12 ≤ s.block.avl.toNat) →
      exec .latlen s = .next
        { s with block := { s.block with len := s.block.w, lenv := true, w := 0, wc := 0 }, out := none })

/-- RDLEN (R82): its word; `SeqError` when no length is latched, else `LEN` output, no register changed. -/
def Obligations.RdlenReadsTheLatchedLength : Prop :=
  decode 0x2400#16 = .command .rdlen ∧
  ∀ s : State, s.block.err = 0 →
    (s.block.lenv = false →
      exec .rdlen s = .next { s with block := { s.block with err := 5 }, out := none }) ∧
    (s.block.lenv = true → exec .rdlen s = .next { s with out := some s.block.len })

/-! ### The type code family -/

/-- LATTYP (43_typecode.md R97): its word; `SeqError` on an incomplete word, else any 32-bit value latched and the
word consumed. -/
def Obligations.LattypLatchesRawBytes : Prop :=
  decode 0x3000#16 = .command .lattyp ∧
  ∀ s : State, s.block.err = 0 →
    (s.block.wc ≠ 4 →
      exec .lattyp s = .next { s with block := { s.block with err := 5 }, out := none }) ∧
    (s.block.wc = 4 →
      exec .lattyp s = .next
        { s with block := { s.block with typ := s.block.w, typv := true, w := 0, wc := 0 }, out := none })

/-- LATTYPS (R98): its word; `InvalidTypeCode` unless there are exactly four bytes and all are letters; else the
type code latched and the word consumed, whatever its reserved bit. -/
def Obligations.LattypsLatchesFourLetters : Prop :=
  decode 0x3100#16 = .command .lattyps ∧
  ∀ s : State, s.block.err = 0 →
    ((s.block.wc ≠ 4 ∨
        ¬(isAlpha (s.block.w.extractLsb' 24 8) = true ∧ isAlpha (s.block.w.extractLsb' 16 8) = true ∧
          isAlpha (s.block.w.extractLsb' 8 8) = true ∧ isAlpha (s.block.w.extractLsb' 0 8) = true)) →
      exec .lattyps s = .next { s with block := { s.block with err := 4 }, out := none }) ∧
    (s.block.wc = 4 →
      isAlpha (s.block.w.extractLsb' 24 8) = true → isAlpha (s.block.w.extractLsb' 16 8) = true →
      isAlpha (s.block.w.extractLsb' 8 8) = true → isAlpha (s.block.w.extractLsb' 0 8) = true →
      exec .lattyps s = .next
        { s with block := { s.block with typ := s.block.w, typv := true, w := 0, wc := 0 }, out := none })

/-- RDTYP (R99): its word; `SeqError` when no type code is latched, else `TYP` output, no register changed. -/
def Obligations.RdtypReadsTheLatchedTypeCode : Prop :=
  decode 0x3200#16 = .command .rdtyp ∧
  ∀ s : State, s.block.err = 0 →
    (s.block.typv = false →
      exec .rdtyp s = .next { s with block := { s.block with err := 5 }, out := none }) ∧
    (s.block.typv = true → exec .rdtyp s = .next { s with out := some s.block.typ })

/-- RDFLG (R100): its word; `SeqError` when no type code is latched, else `FLG(TYP)` output, for every content of
`TYP`, no register changed. -/
def Obligations.RdflgReadsTheFlags : Prop :=
  decode 0x3300#16 = .command .rdflg ∧
  ∀ s : State, s.block.err = 0 →
    (s.block.typv = false →
      exec .rdflg s = .next { s with block := { s.block with err := 5 }, out := none }) ∧
    (s.block.typv = true → exec .rdflg s = .next { s with out := some (flagsWord s.block.typ) })

/-! ### The whole machine -/

/-- The invariant holds of the reset state (R20, U12). -/
def Obligations.ResetMeetsTheInvariant : Prop := State.reset.block.Inv

/-- Every step keeps the invariant (R12 to R16, R110, R125; U12): the code and the count stay in range, `W` holds no
more than was pushed, an unlatched register is 0, a buffer size is at least 12, and the cause of a latched error
still stands in the registers. -/
def Obligations.StepKeepsTheInvariant : Prop :=
  ∀ s t : State, s.block.Inv → step s = .next t → t.block.Inv

/-- A fault is precise (60_exceptions.md R113): when a presented word makes the error non-zero, it is the code of a
kind of error, every other field of the block keeps its value, there is no output, and the port `fault` is 1. -/
def Obligations.FaultEntryIsPrecise : Prop :=
  ∀ (cw : CommandWord) (s t : State), s.block.err = 0 → runWord cw s = .next t → t.block.err ≠ 0 →
    ∃ e : ErrKind, t = { s with block := { s.block with err := e.code }, out := none } ∧ t.faultPort = true

/-- Every place a fault is raised (R111, with the codes of R110): a command that acts ends with the code its row of
the table gives, and with no error where no row holds. R111 marks the table as derived. -/
def Obligations.FaultsAreExactlyTheTable : Prop :=
  ∀ (i : Instr) (s t : State), s.block.err = 0 → exec i s = .next t →
    t.block.err =
      (match faultTable i s.block with
        | none => 0#4
        | some .tooShort => 1#4
        | some .truncated => 2#4
        | some .crcMismatch => 3#4
        | some .invalidTypeCode => 4#4
        | some .seqError => 5#4
        | some .illegalCommand => 6#4)

/-- The first fault wins, and the halted state is left only by CLR or the reset input (R115, R117, R120): a step of
a halted block leaves every register as it was, or resets the whole block, and then the cycle was a reset or
presented 0x0100. The pending cycles are the model's (log entry 1). -/
def Obligations.HaltIsLeftOnlyByClrOrReset : Prop :=
  ∀ s t : State, s.block.err ≠ 0 → step s = .next t →
    t.block = s.block ∨
    (t.block = Block.reset ∧ ∃ c rest, s.inputs = c :: rest ∧
      (c.rst = true ∨ (c.cmdValid = true ∧ c.cmd = 0x0100#16)))

/-- Consumption (42_word_length.md R77): each of the five consuming commands faults on `WC != 4` with its own kind,
clears the word when it completes, and leaves `W` and `WC` as they were when it faults. -/
def Obligations.ConsumingCommandsNeedACompleteWord : Prop :=
  ∀ (i : Instr) (s t : State),
    i = .setavl ∨ i = .latlen ∨ i = .lattyp ∨ i = .lattyps ∨ i = .chk →
    s.block.err = 0 → exec i s = .next t →
    (s.block.wc ≠ 4 →
      t.block = { s.block with err := if i = .lattyps then ErrKind.invalidTypeCode.code else ErrKind.seqError.code }) ∧
    (t.block.err = 0 → t.block.w = 0 ∧ t.block.wc = 0) ∧
    (t.block.err ≠ 0 → t.block = { s.block with err := t.block.err })

/-- Which commands change each register (10_state.md R10, column "written by"): where a register differs after a
command, the command is one the table names for it. Any command that faults may write `ST.ERR`. -/
def Obligations.EachRegisterHasItsWriters : Prop :=
  ∀ (i : Instr) (s t : State), exec i s = .next t →
    (t.block.crc ≠ s.block.crc → i = .crcinit ∨ (∃ b, i = .crcb b) ∨ i = .clr) ∧
    ((t.block.w ≠ s.block.w ∨ t.block.wc ≠ s.block.wc) →
      (∃ b, i = .pushw b) ∨ i = .clrw ∨ i = .setavl ∨ i = .latlen ∨ i = .lattyp ∨ i = .lattyps ∨
        i = .chk ∨ i = .clr) ∧
    ((t.block.len ≠ s.block.len ∨ t.block.lenv ≠ s.block.lenv) → i = .latlen ∨ i = .clr) ∧
    ((t.block.typ ≠ s.block.typ ∨ t.block.typv ≠ s.block.typv) → i = .lattyp ∨ i = .lattyps ∨ i = .clr) ∧
    ((t.block.avl ≠ s.block.avl ∨ t.block.avlv ≠ s.block.avlv) → i = .setavl ∨ i = .clr) ∧
    (t.block.crcOk ≠ s.block.crcOk → i = .chk ∨ i = .crcinit ∨ (∃ b, i = .crcb b) ∨ i = .clr)

/-- Reads have no side effect (20_memory.md R35): a command with an output is one of the five read commands and
changes no register, and giving it again gives the same output and the same state. -/
def Obligations.ReadsHaveNoSideEffect : Prop :=
  ∀ (i : Instr) (s t : State) (v : Word), exec i s = .next t → t.out = some v →
    (i = .rdst ∨ i = .rdcrc ∨ i = .rdlen ∨ i = .rdtyp ∨ i = .rdflg) ∧
    t.block = s.block ∧ exec i t = .next t

/-- What `ST.CRCOK = 1` says (R16, 41_crc.md R68): after a step, either it was set before and `CRC` has not changed,
or the step was a CHK of a block with no error whose complete word equals the finished checksum. -/
def Obligations.CrcOkMeansAMatchAndNoChangeSince : Prop :=
  ∀ s t : State, step s = .next t → t.block.crcOk = true →
    t.block.crc = s.block.crc ∧
    (s.block.crcOk = true ∨
      (s.block.err = 0 ∧ s.block.wc = 4 ∧ s.block.crc ^^^ 0xFFFFFFFF = s.block.w ∧
        ∃ c rest, s.inputs = c :: rest ∧ c.rst = false ∧ c.cmdValid = true ∧ c.cmd = 0x1300#16))

/-- The host cannot read `W` or `AVL` (70_reset_and_hazards.md R143): two blocks that differ in nothing else give
the same output for every word. -/
def Obligations.OutputsDoNotShowTheAssemblerOrTheBufferSize : Prop :=
  ∀ (cw : CommandWord) (s t t' : State) (w avl : Word),
    runWord cw s = .next t →
    runWord cw { s with block := { s.block with w := w, avl := avl } } = .next t' →
    t'.out = t.out

/-- Feeding the checksum and pushing or latching the type code may come in either order (R136, which marks it as
derived): the two orders end in the same state. -/
def Obligations.FeedingCommutesWithPushingAndLatching : Prop :=
  ∀ (a : Byte) (j : Instr) (s : State), s.block.err = 0 →
    ((∃ b, j = .pushw b) ∨ (j = .lattyp ∧ s.block.wc = 4)) →
    ∃ t t' u, exec (.crcb a) s = .next t ∧ exec j t = .next u ∧
      exec j s = .next t' ∧ exec (.crcb a) t' = .next u

/-! ### Sequences of commands -/

/-- Four pushes into an empty assembler spell the big-endian word (R12, R75, R78), which is `PUSH32 v` of R54; a
fifth shifts the first byte out and leaves the count at 5. -/
def Obligations.FourPushesSpellTheWord : Prop :=
  ∀ s : State, s.block.err = 0 → s.block.w = 0 → s.block.wc = 0 →
    (∀ b0 b1 b2 b3 : Byte,
      runCommands [.pushw b0, .pushw b1, .pushw b2, .pushw b3] s =
        .next { s with block := { s.block with w := be32 b0 b1 b2 b3, wc := 4 }, out := none }) ∧
    (∀ v : Word,
      runCommands (push32 v) s = .next { s with block := { s.block with w := v, wc := 4 }, out := none }) ∧
    (∀ b0 b1 b2 b3 b4 : Byte,
      runCommands [.pushw b0, .pushw b1, .pushw b2, .pushw b3, .pushw b4] s =
        .next { s with block := { s.block with w := be32 b1 b2 b3 b4, wc := 5 }, out := none })

/-- Feeding a byte string folds it into `CRC` (R62, R66), of any length; the empty feed is no step at all. -/
def Obligations.FeedingAStringFoldsIt : Prop :=
  ∀ (m : List Byte) (s : State), s.block.err = 0 → m ≠ [] →
    runCommands (feedBytes m) s = .next
      { s with block := { s.block with crc := crcOf s.block.crc m, crcOk := false }, out := none }

/-- Generating (R142): from any block with no error the sequence takes `6 + L` commands (R140) and its only output,
at the last of them, is the checksum of type and payload; `W`, `LEN`, `TYP` and `AVL` are not touched. -/
def Obligations.GenerateSequenceYieldsTheChecksum : Prop :=
  ∀ (t : Word) (d : List Byte) (s : State), s.block.err = 0 →
    (generateSequence t d).length = 6 + d.length ∧
    runCommands (generateSequence t d) s = .next
      { s with
        block := { s.block with crc := crcOf 0xFFFFFFFF (be4 t ++ d), crcOk := false }
        out := some (crc32 (be4 t ++ d)) } ∧
    commandOutputs (generateSequence t d) s = [(5 + d.length, crc32 (be4 t ++ d))]

/-- Verifying (R117, R124, R141): from any state the canonical sequence over a buffer ends with the document's
verdict on it, and where it accepts, with no error and a match, and with the chunk's length, type code and checksum
in the registers and 0xF0 as the status word. How bytes beyond a short buffer are taken is the model's choice (log
entry 12). -/
def Obligations.VerifySequenceGivesTheVerdict : Prop :=
  ∀ (c : List Byte) (s : State), c.length < 2 ^ 32 →
    ∃ t, runCommands (verifySequence c) s = .next t ∧
      (∀ e, parseVerdict c = some e → t.block.err = e.code) ∧
      (parseVerdict c = none →
        t.verified ∧ t.block.lenv = true ∧ t.block.len = declaredLength c ∧
        t.block.typv = true ∧ t.block.typ = wordAt 4 c ∧
        t.block.crc ^^^ 0xFFFFFFFF = wordAt (8 + (declaredLength c).toNat) c ∧
        t.block.avl.toNat = c.length ∧ statusWord t.block = 0xF0#32)

/-- The canonical verification takes `26 + L` commands on a buffer that holds its chunk (R140, R141). -/
def Obligations.VerifySequenceLength : Prop :=
  ∀ c : List Byte, chunkSize (declaredLength c).toNat ≤ c.length →
    (verifySequence c).length = 26 + (declaredLength c).toNat

/-- A fresh chunk is accepted, whatever follows it in the buffer (R70 c, R83, R141), is `12 + L` bytes long (R41), and
holds its fields where the layout says (R33): the document's round trip. R70 c is marked as derived. -/
def Obligations.FreshChunkIsAccepted : Prop :=
  ∀ (t : Word) (d rest : List Byte), d.length < 2 ^ 32 →
    (freshChunk t d).length = 12 + d.length ∧
    parseVerdict (freshChunk t d ++ rest) = none ∧
    (declaredLength (freshChunk t d ++ rest)).toNat = d.length ∧
    wordAt 4 (freshChunk t d ++ rest) = t ∧
    coveredBytes d.length (freshChunk t d ++ rest) = be4 t ++ d ∧
    wordAt (8 + d.length) (freshChunk t d ++ rest) = crc32 (be4 t ++ d)
end

