-- ==== Sys2Proof/Config.lean ====
section
/-! DEFINITION. What an implementation of the block fixes and the spec leaves open: the one parameter `T_CMD`
(00_scope.md R4, 70_reset_and_hazards.md R140, 93_implementation_defined.md U15). -/

namespace Sys2Proof

/-- How many clock cycles beyond the first a command takes. No value of it can be proved or evaluated (R140: OPEN). -/
opaque Config.extraCycles : Nat

/-- `T_CMD`: clock cycles from the cycle a command is presented to the cycle its effect and its result stand, an
integer of at least 1, the same for every command (R140). The model carries no time and its step does not read it:
"No rule of this spec depends on `T_CMD`" (log entry 6). -/
def Config.tCmd : Nat := Config.extraCycles + 1

end Sys2Proof
end

