-- ==== Sys2Proof/Laws/Checksum.lean ====
section
/-! SUPPORT. Small laws of the checksum: the byte step is linear over XOR, one iteration at a time. -/

namespace Sys2Proof.Machine

@[simp] theorem crcRounds_zero (x : Word) : crcRounds 0 x = x := rfl
@[simp] theorem crcRounds_succ (n : Nat) (x : Word) : crcRounds (n + 1) x = crcRounds n (crcRound x) := rfl
@[simp] theorem msbRounds_zero (r : Word) : msbRounds 0 r = r := rfl
@[simp] theorem msbRounds_succ (n : Nat) (r : Word) : msbRounds (n + 1) r = msbRounds n (msbRound r) := rfl

/-- One iteration is linear: the shift and the conditional XOR both are. -/
theorem crcRound_xor (x y : Word) : crcRound (x ^^^ y) = crcRound x ^^^ crcRound y := by
  have hs : (x ^^^ y) >>> 1 = (x >>> 1) ^^^ (y >>> 1) := by
    ext i; simp [BitVec.getElem_ushiftRight]
  cases hx : x.getLsbD 0 <;> cases hy : y.getLsbD 0 <;>
    simp only [crcRound, BitVec.getLsbD_xor, hx, hy, hs, bne_self_eq_false, Bool.false_bne, Bool.true_bne,
      Bool.not_false, Bool.false_eq_true, ↓reduceIte]
  · ac_rfl
  · ac_rfl
  · rw [show (x >>> 1 ^^^ crcPoly) ^^^ (y >>> 1 ^^^ crcPoly)
        = (x >>> 1 ^^^ y >>> 1) ^^^ (crcPoly ^^^ crcPoly) by ac_rfl]
    simp

/-- Any number of iterations is linear. -/
theorem crcRounds_xor (n : Nat) (x y : Word) : crcRounds n (x ^^^ y) = crcRounds n x ^^^ crcRounds n y := by
  induction n generalizing x y with
  | zero => rfl
  | succ n ih => simp [crcRound_xor, ih]

/-- The bit shifted out of a word comes back as the top bit, which the reversed polynomial sets (R61). -/
theorem crcRound_msb (x : Word) : (crcRound x).getLsbD 31 = x.getLsbD 0 := by
  unfold crcRound crcPoly
  cases h : x.getLsbD 0 <;> simp

end Sys2Proof.Machine
end

