-- ==== Sys2Proof/Laws/Decode.lean ====
section
/-! SUPPORT. Small laws of the command word: its two fields, and the commands as source lines. -/

namespace Sys2Proof

/-- The opcode of a word put together from its two fields (R45, R53). -/
@[simp] theorem opcField_fields (opc imm : Byte) :
    opcField ((opc.setWidth 16 <<< 8) ||| imm.setWidth 16) = opc := by
  ext i hi
  simp [opcField, hi, show 8 + i < 16 by omega]

/-- The operand of a word put together from its two fields (R45, R53). -/
@[simp] theorem immField_fields (opc imm : Byte) :
    immField ((opc.setWidth 16 <<< 8) ||| imm.setWidth 16) = imm := by
  ext i hi
  simp [immField, hi, show i < 16 by omega]

/-- A word is its two fields, and nothing else (R45). -/
theorem fields_of_word (cw : CommandWord) :
    ((opcField cw).setWidth 16 <<< 8) ||| (immField cw).setWidth 16 = cw := by
  ext i hi
  by_cases h : i < 8
  · simp [opcField, immField, h]
    exact BitVec.getLsbD_eq_getElem hi
  · simp [opcField, immField, h, show 8 + (i - 8) = i by omega, show i - 8 < 8 by omega]
    exact BitVec.getLsbD_eq_getElem hi

@[simp] theorem opcField_encode (i : Instr) : opcField (encode i) = i.opcode := opcField_fields _ _

@[simp] theorem immField_encode (i : Instr) : immField (encode i) = i.operand := immField_fields _ _

/-- Every command is well formed: its operand is a byte, and stands only where its format asks for one. -/
theorem Instr_wf (i : Instr) : i.wf = true := by
  cases i with
  | crcb imm => exact decide_eq_true (Nat.le_of_lt_succ imm.isLt)
  | pushw imm => exact decide_eq_true (Nat.le_of_lt_succ imm.isLt)
  | _ => rfl

end Sys2Proof
end

