-- ==== Sys2Proof/Laws/Operands.lean ====
section
/-! SUPPORT. The concatenations of the model as shifts and ORs, bit by bit, and small laws of the operand forms. -/

namespace Sys2Proof.Machine

/-- The bits of a big-endian word: byte 3 at the bottom, byte 0 at the top. -/
theorem be32_getLsbD (b0 b1 b2 b3 : Byte) (i : Nat) :
    (be32 b0 b1 b2 b3).getLsbD i =
      if i < 8 then b3.getLsbD i
      else if i < 16 then b2.getLsbD (i - 8)
      else if i < 24 then b1.getLsbD (i - 16)
      else b0.getLsbD (i - 24) := by
  show BitVec.getLsbD (((b0 ++ b1) ++ b2) ++ b3) i = _
  simp only [BitVec.getLsbD_append, Nat.sub_sub]
  by_cases h1 : i < 8
  · simp [h1]
  by_cases h2 : i < 16
  · simp [h1, h2, show i - 8 < 8 by omega]
  by_cases h3 : i < 24
  · simp [h1, h2, h3, show ¬ i - 8 < 8 by omega, show i - 16 < 8 by omega]
  · simp [h1, h2, h3, show ¬ i - 8 < 8 by omega, show ¬ i - 16 < 8 by omega]

/-- Pushing a byte keeps the bytes below the top one and puts the new byte at the bottom (R78). -/
theorem pushByte_getLsbD (w : Word) (imm : Byte) (i : Nat) :
    (pushByte w imm).getLsbD i =
      if i < 8 then imm.getLsbD i else (decide (i < 32) && w.getLsbD (i - 8)) := by
  by_cases h : i < 8
  · simp [pushByte, h, show i < 32 by omega]
  · simp [pushByte, h, BitVec.getLsbD_of_ge imm i (by omega)]

@[simp] theorem be4_length (v : Word) : (be4 v).length = 4 := rfl

/-- The push count as a number. -/
theorem bumpCount_toNat (wc : BitVec 3) : (bumpCount wc).toNat = min (wc.toNat + 1) 5 := by
  have : min (wc.toNat + 1) 5 < 8 := by omega
  simp [bumpCount, Nat.mod_eq_of_lt this]

/-- The test of SETAVL as a comparison of numbers (R80). -/
theorem lt_minChunk_iff (n : Word) : n < minChunk ↔ n.toNat < 12 := by
  simp [BitVec.lt_def, minChunk]

end Sys2Proof.Machine
end

