-- ==== Sys2Proof/Laws/State.lean ====
section
/-! SUPPORT. One lemma per field per update of the state, so that no proof unfolds a record update. -/

namespace Sys2Proof.Machine

@[simp] theorem enterFault_block (e : ErrKind) (s : State) :
    (enterFault e s).block = { s.block with err := e.code } := rfl
@[simp] theorem enterFault_inputs (e : ErrKind) (s : State) : (enterFault e s).inputs = s.inputs := rfl
@[simp] theorem enterFault_out (e : ErrKind) (s : State) : (enterFault e s).out = none := rfl

@[simp] theorem returnToReset_block (s : State) : (returnToReset s).block = Block.reset := rfl
@[simp] theorem returnToReset_inputs (s : State) : (returnToReset s).inputs = s.inputs := rfl
@[simp] theorem returnToReset_out (s : State) : (returnToReset s).out = none := rfl

@[simp] theorem quiet_block (s : State) : (quiet s).block = s.block := rfl
@[simp] theorem quiet_inputs (s : State) : (quiet s).inputs = s.inputs := rfl
@[simp] theorem quiet_out (s : State) : (quiet s).out = none := rfl

@[simp] theorem settle_write_block (b : Block) (s : State) : (settle (.write b) s).block = b := rfl
@[simp] theorem settle_write_out (b : Block) (s : State) : (settle (.write b) s).out = none := rfl
@[simp] theorem settle_output_block (v : Word) (s : State) : (settle (.output v) s).block = s.block := rfl
@[simp] theorem settle_output_out (v : Word) (s : State) : (settle (.output v) s).out = some v := rfl
@[simp] theorem settle_raise (e : ErrKind) (s : State) : settle (.raise e) s = enterFault e s := rfl
@[simp] theorem settle_inputs (f : Effect) (s : State) : (settle f s).inputs = s.inputs := by
  cases f <;> rfl

@[simp] theorem presenting_block (cw : CommandWord) (s : State) : (s.presenting cw).block = s.block := rfl
@[simp] theorem presenting_inputs (cw : CommandWord) (s : State) :
    (s.presenting cw).inputs = commandCycle cw :: s.inputs := rfl
@[simp] theorem presenting_out (cw : CommandWord) (s : State) : (s.presenting cw).out = s.out := rfl

@[simp] theorem clearWord_crc (b : Block) : b.clearWord.crc = b.crc := rfl
@[simp] theorem clearWord_w (b : Block) : b.clearWord.w = 0 := rfl
@[simp] theorem clearWord_wc (b : Block) : b.clearWord.wc = 0 := rfl
@[simp] theorem clearWord_len (b : Block) : b.clearWord.len = b.len := rfl
@[simp] theorem clearWord_lenv (b : Block) : b.clearWord.lenv = b.lenv := rfl
@[simp] theorem clearWord_typ (b : Block) : b.clearWord.typ = b.typ := rfl
@[simp] theorem clearWord_typv (b : Block) : b.clearWord.typv = b.typv := rfl
@[simp] theorem clearWord_avl (b : Block) : b.clearWord.avl = b.avl := rfl
@[simp] theorem clearWord_avlv (b : Block) : b.clearWord.avlv = b.avlv := rfl
@[simp] theorem clearWord_err (b : Block) : b.clearWord.err = b.err := rfl
@[simp] theorem clearWord_crcOk (b : Block) : b.clearWord.crcOk = b.crcOk := rfl

@[simp] theorem reset_block : State.reset.block = Block.reset := rfl
@[simp] theorem reset_inputs : State.reset.inputs = [] := rfl
@[simp] theorem reset_out : State.reset.out = none := rfl

@[simp] theorem Block_reset_err : Block.reset.err = 0 := rfl
@[simp] theorem Block_reset_wc : Block.reset.wc = 0 := rfl
@[simp] theorem Block_reset_w : Block.reset.w = 0 := rfl
@[simp] theorem Block_reset_crc : Block.reset.crc = 0xFFFFFFFF := rfl
@[simp] theorem Block_reset_len : Block.reset.len = 0 := rfl
@[simp] theorem Block_reset_lenv : Block.reset.lenv = false := rfl
@[simp] theorem Block_reset_typ : Block.reset.typ = 0 := rfl
@[simp] theorem Block_reset_typv : Block.reset.typv = false := rfl
@[simp] theorem Block_reset_avl : Block.reset.avl = 0 := rfl
@[simp] theorem Block_reset_avlv : Block.reset.avlv = false := rfl
@[simp] theorem Block_reset_crcOk : Block.reset.crcOk = false := rfl

end Sys2Proof.Machine
end

