-- ==== Sys2Proof/Laws/Ops.lean ====
section
/-! SUPPORT. What each shared operation can do, said once: the halt rule, the gates, the command port and a step. -/

namespace Sys2Proof.Machine

/-- Every error code is not 0: a raised error halts the block. -/
@[simp] theorem errKind_code_ne_zero (e : ErrKind) : e.code ≠ 0 := by
  cases e <;> decide

/-- The codes are different for different errors. -/
theorem errKind_code_injective {e f : ErrKind} (h : e.code = f.code) : e = f := by
  revert h; cases e <;> cases f <;> decide

/-- A command under the halt rule, in a halted block. -/
theorem actUnlessHalted_halted {f : Block → Effect} {s : State} (h : s.block.halted) :
    actUnlessHalted f s = .next (quiet s) :=
  congrArg Host.Outcome.next (if_pos h)

/-- A command under the halt rule, in a block that is not halted. -/
theorem actUnlessHalted_active {f : Block → Effect} {s : State} (h : s.block.err = 0) :
    actUnlessHalted f s = .next (settle (f s.block) s) :=
  congrArg Host.Outcome.next (if_neg (not_not_intro h))

/-- The gate of a complete word lets it through. -/
theorem withCompleteWord_complete {e : ErrKind} {b : Block} {use : Word → Effect} (h : b.wc = 4) :
    withCompleteWord e b use = use b.w := if_pos h

/-- The gate of a complete word raises its error on every other count. -/
theorem withCompleteWord_incomplete {e : ErrKind} {b : Block} {use : Word → Effect} (h : b.wc ≠ 4) :
    withCompleteWord e b use = .raise e := if_neg h

/-- A latched register is output. -/
@[simp] theorem readLatched_true (v : Word) : readLatched true v = .output v := rfl

/-- A register that was never latched is not given a value. -/
@[simp] theorem readLatched_false (v : Word) : readLatched false v = .raise .seqError := rfl

/-- The commands that act in the halted state too (R114). -/
def actsHalted : Instr → Bool
  | .nop | .clr | .rdst => true
  | _ => false

/-- The effect of each command in a block in which it acts, read off the meanings. -/
def effectOf (i : Instr) (b : Block) : Effect :=
  match i with
  | .nop => .write b
  | .clr => .write Block.reset
  | .rdst => .output (statusWord b)
  | .crcinit => .write { b with crc := crcInit, crcOk := false }
  | .crcb imm => .write { b with crc := crcStep b.crc imm, crcOk := false }
  | .rdcrc => .output (crcFinish b.crc)
  | .chk =>
    withCompleteWord .seqError b fun stored =>
      if crcFinish b.crc = stored then .write { b.clearWord with crcOk := true } else .raise .crcMismatch
  | .pushw imm => .write { b with w := pushByte b.w imm, wc := bumpCount b.wc }
  | .clrw => .write b.clearWord
  | .setavl =>
    withCompleteWord .seqError b fun n =>
      if n < minChunk then .raise .tooShort else .write { b.clearWord with avl := n, avlv := true }
  | .latlen =>
    withCompleteWord .seqError b fun l =>
      if b.avlv && !fits b.avl l then .raise .truncated
      else .write { b.clearWord with len := l, lenv := true }
  | .rdlen => readLatched b.lenv b.len
  | .lattyp => withCompleteWord .seqError b fun t => .write { b.clearWord with typ := t, typv := true }
  | .lattyps =>
    withCompleteWord .invalidTypeCode b fun t =>
      if allAlpha t then .write { b.clearWord with typ := t, typv := true } else .raise .invalidTypeCode
  | .rdtyp => readLatched b.typv b.typ
  | .rdflg => readLatched b.typv (flagsWord b.typ)

/-- Every command, in every state: its effect where it acts, and nothing where the halt rule stops it. Proofs about
`exec` cite this and case on the effect. -/
theorem exec_eq_settle (i : Instr) (s : State) :
    exec i s =
      .next (if actsHalted i = false ∧ s.block.halted then quiet s else settle (effectOf i s.block) s) := by
  cases i <;> first | rfl | simp [exec, actsHalted, effectOf, execCrcinit, execCrcb, execRdcrc, execChk, execPushw,
    execClrw, execSetavl, execLatlen, execRdlen, execLattyp, execLattyps, execRdtyp, execRdflg, actUnlessHalted]

/-- Every command in a block that is not halted: its effect. -/
theorem exec_active (i : Instr) {s : State} (h : s.block.err = 0) :
    exec i s = .next (settle (effectOf i s.block) s) :=
  (exec_eq_settle i s).trans (congrArg Host.Outcome.next (if_neg fun hh => hh.2 h))

/-- Every command but NOP, CLR and RDST in a halted block: nothing. -/
theorem exec_halted {i : Instr} (hi : actsHalted i = false) {s : State} (h : s.block.halted) :
    exec i s = .next (quiet s) :=
  (exec_eq_settle i s).trans (congrArg Host.Outcome.next (if_pos ⟨hi, h⟩))

/-- A word that spells no command, in a block that is not halted. -/
theorem illegalWord_active {s : State} (h : s.block.err = 0) :
    illegalWord s = .next (enterFault .illegalCommand s) := actUnlessHalted_active h

/-- A word that spells no command, in a halted block. -/
theorem illegalWord_halted {s : State} (h : s.block.halted) : illegalWord s = .next (quiet s) :=
  actUnlessHalted_halted h

/-- A presented word that decodes to a command is that command. -/
theorem runWord_command {cw : CommandWord} {i : Instr} (h : decode cw = .command i) (s : State) :
    runWord cw s = exec i s := by
  simp [runWord, h]

/-- A presented word that decodes to no command. -/
theorem runWord_illegal {cw : CommandWord} {why : Illegal} (h : decode cw = .illegal why) (s : State) :
    runWord cw s = illegalWord s := by
  simp [runWord, h]

/-- A step takes the oldest pending cycle. -/
theorem step_of_inputs_cons {s : State} {c : PortCycle} {rest : List PortCycle} (h : s.inputs = c :: rest) :
    step s = runCycle c { s with inputs := rest } := by
  simp [step, runNextCycle, takeCycle, h]

/-- A presented word is what the next step runs. -/
theorem present_eq_runWord (cw : CommandWord) (s : State) : present cw s = runWord cw s := rfl

/-- The next state of every effect keeps the pending inputs. -/
theorem exec_inputs {i : Instr} {s t : State} (h : exec i s = .next t) : t.inputs = s.inputs := by
  rw [exec_eq_settle] at h
  simp only [Host.Outcome.next.injEq] at h
  subst h
  split <;> simp

/-- Everything a cycle can do: return to reset, nothing, a command, or a word that spells none. -/
theorem runCycle_cases (c : PortCycle) (s : State) :
    (c.rst = true ∧ runCycle c s = .next (returnToReset s)) ∨
    (c.rst = false ∧ c.cmdValid = false ∧ runCycle c s = .next (quiet s)) ∨
    (c.rst = false ∧ c.cmdValid = true ∧
      ((∃ i, decode c.cmd = .command i ∧ runCycle c s = exec i s) ∨
       (∃ why, decode c.cmd = .illegal why ∧ runCycle c s = illegalWord s))) := by
  obtain ⟨rst, valid, cmd⟩ := c
  cases rst <;> cases valid <;> simp [runCycle, runWord]
  cases decode cmd <;> simp

end Sys2Proof.Machine
end

