-- ==== Sys2Proof/Laws/PerInstr.lean ====
section
/-! SUPPORT. The family WordShape: of each command as syntax, that it is well formed and that its word holds its
opcode in bits 15:8 and its operand in bits 7:0 (30_encoding.md R45, R47). -/

namespace Sys2Proof.Laws.WordShape

/-- The command is well formed, and its word is its two fields in their places. -/
def Statement (i : Instr) : Prop :=
  i.wf = true ∧ opcField (encode i) = i.opcode ∧ immField (encode i) = i.operand

/-- The statement, of any command: the word is put together from the two fields. -/
theorem of_fields (i : Instr) : Statement i :=
  ⟨Instr_wf i, opcField_encode i, immField_encode i⟩

theorem nop : Statement .nop := of_fields _
theorem clr : Statement .clr := of_fields _
theorem rdst : Statement .rdst := of_fields _
theorem crcinit : Statement .crcinit := of_fields _
theorem crcb (imm : Byte) : Statement (.crcb imm) := of_fields _
theorem rdcrc : Statement .rdcrc := of_fields _
theorem chk : Statement .chk := of_fields _
theorem pushw (imm : Byte) : Statement (.pushw imm) := of_fields _
theorem clrw : Statement .clrw := of_fields _
theorem setavl : Statement .setavl := of_fields _
theorem latlen : Statement .latlen := of_fields _
theorem rdlen : Statement .rdlen := of_fields _
theorem lattyp : Statement .lattyp := of_fields _
theorem lattyps : Statement .lattyps := of_fields _
theorem rdtyp : Statement .rdtyp := of_fields _
theorem rdflg : Statement .rdflg := of_fields _

end Sys2Proof.Laws.WordShape
end

