-- ==== Sys2Proof/Tests/Slice0.lean ====
section
/-! SUPPORT. The model's own tests: words written out from the encodings of 30_encoding.md R48, ill-formed source
lines, one or two steps for each command with the results the spec prints (95_test_vectors.md and the examples of
the command rules), and for each obligation with hypotheses a concrete case that meets them. -/

namespace Sys2Proof.Tests

open Sys2Proof Sys2Proof.Machine

/-- A machine with nothing pending and a block. -/
def on (b : Block) : State := { block := b, inputs := [], out := none }

/-- The reset block with a complete word in the assembler. -/
def full (w : Word) : Block := { Block.reset with w := w, wc := 4 }

/-- The next state of an outcome. -/
def nextOf (o : Host.Outcome State Fault Refusal) : Option State :=
  match o with
  | .next t => some t
  | _ => none

/-! ### Decoding, each word from its opcode and operand bits (R48) -/

theorem test_decode_system :
    decode 0b0000000000000000#16 = .command .nop ∧ decode 0b0000000100000000#16 = .command .clr ∧
    decode 0b0000001000000000#16 = .command .rdst := by decide

theorem test_decode_crc :
    decode 0b0001000000000000#16 = .command .crcinit ∧ decode 0b0001000101010010#16 = .command (.crcb 0x52) ∧
    decode 0b0001001000000000#16 = .command .rdcrc ∧ decode 0b0001001100000000#16 = .command .chk := by decide

theorem test_decode_word_length :
    decode 0b0010000000000101#16 = .command (.pushw 0x05) ∧ decode 0b0010000100000000#16 = .command .clrw ∧
    decode 0b0010001000000000#16 = .command .setavl ∧ decode 0b0010001100000000#16 = .command .latlen ∧
    decode 0b0010010000000000#16 = .command .rdlen := by decide

theorem test_decode_typecode :
    decode 0b0011000000000000#16 = .command .lattyp ∧ decode 0b0011000100000000#16 = .command .lattyps ∧
    decode 0b0011001000000000#16 = .command .rdtyp ∧ decode 0b0011001100000000#16 = .command .rdflg := by decide

/-- The reserved words of 95_test_vectors.md section 3.6. -/
theorem test_decode_reserved :
    ([0x0001, 0x00FF, 0x0101, 0x0300, 0x0F00, 0x1001, 0x1400, 0x2180, 0x2500, 0x3400, 0x4000, 0x8000, 0xFF00,
      0xFFFF] : List CommandWord).all (fun cw => (decode cw).command?.isNone) = true := by decide

theorem test_decode_table_word : decodeTableWord 16 0x1152 = some (.crcb 0x52) := by decide

theorem test_encode :
    encode (.crcb 0x52) = 0x1152 ∧ encode .latlen = 0x2300 ∧ encode (.pushw 0xFF) = 0x20FF := by decide

/-! ### Well-formed lines: each check refuses an ill-formed term (R46, R47, R53, R54) -/

theorem test_wf_operand_over_255 : (Line.command .crcb (some 256)).wf = false := by decide
theorem test_wf_operand_missing : (Line.command .pushw none).wf = false := by decide
theorem test_wf_operand_in_format_n : (Line.command .latlen (some 0)).wf = false := by decide
theorem test_wf_word_over_16_bits : (Line.word 65536).wf = false := by decide
theorem test_wf_push32_over_32_bits : (Line.push32 4294967296).wf = false := by decide
theorem test_wf_pushs_byte_over_255 : (Line.pushs [0, 256]).wf = false := by decide
theorem test_wf_crcs_byte_over_255 : (Line.crcs [256]).wf = false := by decide
theorem test_wf_accepts : (Line.command .crcb (some 255)).wf = true ∧ (Line.word 65535).wf = true := by decide

/-! ### The assembler text (the examples of R53) -/

theorem test_text_crcb : assembleText ['C', 'R', 'C', 'B', ' ', '\'', 'R', '\''] = some [0x1152] := by decide
theorem test_text_comment :
    assembleText ['L', 'A', 'T', 'L', 'E', 'N', ' ', '-', '-', ' ', 'x'] = some [0x2300] := by decide
theorem test_text_word :
    assembleText ['.', 'w', 'o', 'r', 'd', ' ', '0', 'x', '1', '0', '0', '1'] = some [0x1001] := by decide
theorem test_text_string :
    assembleText ['C', 'R', 'C', 'S', ' ', '"', 'r', 'u', '"'] = some [0x1172, 0x1175] := by decide

/-! ### Functions (95_test_vectors.md sections 3.1 to 3.3) -/

theorem test_crc_step : crcStep 0xFFFFFFFF 0x52 = 0xA89820AA ∧ crcStep 0x12345678 0xAB = 0x1FC8B738 := by decide

/-- The check value of R60: the checksum of "123456789". -/
theorem test_crc32_check_value :
    crc32 [0x31, 0x32, 0x33, 0x34, 0x35, 0x36, 0x37, 0x38, 0x39] = 0xCBF43926 := by decide +kernel

/-- The document's known vector (S8), 46 bytes. -/
theorem test_crc32_known_vector :
    crc32 [0x52, 0x75, 0x53, 0x74, 0x54, 0x68, 0x69, 0x73, 0x20, 0x69, 0x73, 0x20, 0x77, 0x68, 0x65, 0x72,
      0x65, 0x20, 0x79, 0x6F, 0x75, 0x72, 0x20, 0x73, 0x65, 0x63, 0x72, 0x65, 0x74, 0x20, 0x6D, 0x65,
      0x73, 0x73, 0x61, 0x67, 0x65, 0x20, 0x77, 0x69, 0x6C, 0x6C, 0x20, 0x62, 0x65, 0x21] = 2882656334#32 := by
  decide +kernel

theorem test_crc_table : crcTable 1 = 0x77073096 ∧ crcTable 255 = 0x2D02EF8D := by decide
theorem test_be32 : be32 0xAE 0x50 0x8D 0x6F = 0xAE508D6F := by decide
theorem test_be4 : be4 2882656334#32 = [0xAB, 0xD1, 0xD8, 0x4E] := by decide

theorem test_fits :
    fits 17 5 = true ∧ fits 16 5 = false ∧ fits 13 5 = false ∧ fits 12 0 = true ∧ fits 11 0 = false ∧
    fits 0xFFFFFFFF 0xFFFFFFF3 = true ∧ fits 0xFFFFFFFF 0xFFFFFFF4 = false ∧ fits 12 0xFFFFFFF4 = false := by decide

/-- RuSt, Rust, tEXt, Ru1t, the four neighbours of the letter ranges, and 'R' with bit 7 set. -/
theorem test_flags_word :
    flagsWord 0x52755374 = 0x3D ∧ flagsWord 0x52757374 = 0x19 ∧ flagsWord 0x74455874 = 0x3E ∧
    flagsWord 0x52753174 = 0x09 ∧ flagsWord 0x405B607B = 0x00 ∧ flagsWord 0xD2755374 = 0x0C := by decide

/-! ### One step of each command -/

theorem test_nop_halted :
    (nextOf (exec .nop (on { full 11 with err := 1 }))).map (·.block) = some { full 11 with err := 1 } := by decide

/-- The example of R106. -/
theorem test_clr :
    (nextOf (exec .clr (on { full 0xAE508D6F with err := 3, crc := 0x6CCF5B20, len := 5, lenv := true }))).map
      (·.block) = some Block.reset := by decide

/-- The examples of R107. -/
theorem test_rdst :
    (nextOf (exec .rdst (on { full 0 with err := 3, lenv := true, typv := true, avlv := true }))).bind (·.out)
      = some 0x000004E3 ∧
    (nextOf (exec .rdst (on { Block.reset with crcOk := true, lenv := true, typv := true, avlv := true }))).bind
      (·.out) = some 0x000000F0 := by decide

theorem test_crcinit :
    (nextOf (exec .crcinit (on { Block.reset with crc := 0x12345678, crcOk := true }))).map (·.block)
      = some Block.reset := by decide

theorem test_crcb :
    (nextOf (exec (.crcb 0x75) (on { Block.reset with crc := 0xA89820AA, crcOk := true }))).map (·.block)
      = some { Block.reset with crc := 0x16C45765 } := by decide

theorem test_rdcrc :
    (nextOf (exec .rdcrc (on { Block.reset with crc := 0x2B7BF6C3 }))).bind (·.out) = some 0xD484093C := by decide

/-- The rows of the CHK table of section 3.1: a match, a mismatch, an overfull word. -/
theorem test_chk :
    (nextOf (exec .chk (on { full 0xAE508D6F with crc := 0x51AF7290 }))).map (·.block)
      = some { Block.reset with crc := 0x51AF7290, crcOk := true } ∧
    (nextOf (exec .chk (on { full 0xAE508D6E with crc := 0x51AF7290 }))).map (·.block.err) = some 3 ∧
    (nextOf (exec .chk (on { full 0xAE508D6F with crc := 0x51AF7290, wc := 5 }))).map (·.block.err) = some 5 := by
  decide

/-- The examples of R78, the fifth push among them. -/
theorem test_pushw :
    (nextOf (exec (.pushw 0x78) (on (full 0x52755374)))).map (·.block)
      = some { Block.reset with w := 0x75537478, wc := 5 } ∧
    (nextOf (exec (.pushw 0x79) (on { full 0x75537478 with wc := 5 }))).map (·.block)
      = some { Block.reset with w := 0x53747879, wc := 5 } := by decide

theorem test_clrw :
    (nextOf (exec .clrw (on { full 0x75537478 with wc := 5, len := 5 }))).map (·.block)
      = some { Block.reset with len := 5 } := by decide

/-- 17 and 12 are accepted, 11 is `TooShort`. -/
theorem test_setavl :
    (nextOf (exec .setavl (on (full 17)))).map (·.block) = some { Block.reset with avl := 17, avlv := true } ∧
    (nextOf (exec .setavl (on (full 12)))).map (·.block.err) = some 0 ∧
    (nextOf (exec .setavl (on (full 11)))).map (·.block) = some { full 11 with err := 1 } := by decide

/-- A length that fits, the band of C7, and no buffer size. -/
theorem test_latlen :
    (nextOf (exec .latlen (on { full 5 with avl := 17, avlv := true }))).map (·.block)
      = some { Block.reset with len := 5, lenv := true, avl := 17, avlv := true } ∧
    (nextOf (exec .latlen (on { full 5 with avl := 13, avlv := true }))).map (·.block.err) = some 2 ∧
    (nextOf (exec .latlen (on (full 0xFFFFFFFF)))).map (·.block.len) = some 0xFFFFFFFF := by decide

theorem test_rdlen :
    (nextOf (exec .rdlen (on { Block.reset with len := 5, lenv := true }))).bind (·.out) = some 5 ∧
    (nextOf (exec .rdlen (on Block.reset))).map (·.block.err) = some 5 := by decide

theorem test_lattyp :
    (nextOf (exec .lattyp (on (full 0x72755374)))).map (·.block)
      = some { Block.reset with typ := 0x72755374, typv := true } ∧
    (nextOf (exec .lattyp (on { full 0x5275 with wc := 2 }))).map (·.block.err) = some 5 := by decide

/-- "Rust" is latched, "Ru1t" and "RuS" are `InvalidTypeCode`. -/
theorem test_lattyps :
    (nextOf (exec .lattyps (on (full 0x52757374)))).map (·.block)
      = some { Block.reset with typ := 0x52757374, typv := true } ∧
    (nextOf (exec .lattyps (on (full 0x52753174)))).map (·.block.err) = some 4 ∧
    (nextOf (exec .lattyps (on { full 0x527553 with wc := 3 }))).map (·.block.err) = some 4 := by decide

theorem test_rdtyp :
    (nextOf (exec .rdtyp (on { Block.reset with typ := 0x52755374, typv := true }))).bind (·.out)
      = some 0x52755374 := by decide

theorem test_rdflg :
    (nextOf (exec .rdflg (on { Block.reset with typ := 0x72755374, typv := true }))).bind (·.out) = some 0x3C ∧
    (nextOf (exec .rdflg (on Block.reset))).map (·.block.err) = some 5 := by decide

/-! ### The step -/

theorem test_step_from_reset :
    (nextOf (step (State.reset.withFetchWord 16 0x1152))).map (·.block.crc) = some 0xA89820AA := by decide

theorem test_step_reserved_word :
    (nextOf (step (State.reset.withFetchWord 16 0x1001))).map (·.block.err) = some 6 := by decide

theorem test_step_halted_ignores :
    (nextOf (step ((on { full 11 with err := 1 }).withFetchWord 16 0x2005))).map (·.block)
      = some { full 11 with err := 1 } := by decide

theorem test_step_reset_input :
    (nextOf (step { on (full 11) with inputs := [{ rst := true, cmdValid := true, cmd := 0x2005 }] })).map
      (·.block) = some Block.reset := by decide

/-! ### Witnesses: each obligation with hypotheses has a case that meets them -/

theorem witness_cycle_reset : ({ on (full 11) with inputs := [resetCycle] } : State).inputs = resetCycle :: [] ∧
    resetCycle.rst = true := by decide

theorem witness_no_pending_cycle : (on (full 11)).inputs = [] := rfl

/-- For StepRunsTheDecodedCommand and WithFetchWordRunsNext. -/
theorem witness_presented_command :
    ((on Block.reset).presenting 0x1152).inputs = { rst := false, cmdValid := true, cmd := 0x1152 } :: [] ∧
    decode 0x1152 = .command (.crcb 0x52) ∧ decodeTableWord 16 0x1152 = some (.crcb 0x52) := by decide

/-- For ReservedWordRaisesIllegalCommand, halted and not. -/
theorem witness_reserved_word :
    (∀ i, decode 0x1001 ≠ .command i) ∧ (on Block.reset).block.err = 0 ∧
    (on { full 11 with err := 1 }).block.err ≠ 0 := by
  refine ⟨fun i h => ?_, rfl, by decide⟩
  rw [show decode 0x1001 = .illegal (.operandNotZero 0x10 0x01) by decide] at h
  exact Decoded.noConfusion h

/-- For SingleBitFlipIsDetected: bit 7 of the second of two bytes, and the block a CHK then meets. -/
theorem witness_single_bit_flip :
    7 < 8 ∧ ∃ s : State, s.block.err = 0 ∧ s.block.wc = 4 ∧
      s.block.crc = crcOf 0xFFFFFFFF ([0x72#8] ++ (0x75#8 ^^^ (1#8 <<< 7)) :: []) ∧
      s.block.w = crc32 ([0x72#8] ++ 0x75#8 :: []) :=
  ⟨by decide, on { full (crc32 ([0x72#8] ++ 0x75#8 :: [])) with
    crc := crcOf 0xFFFFFFFF ([0x72#8] ++ (0x75#8 ^^^ (1#8 <<< 7)) :: []) },
    by decide, by decide, by decide +kernel, by decide +kernel⟩

theorem witness_fits_below_minimum : (11#32).toNat < 12 := by decide

theorem witness_letters : allAlpha 0x52755374 = true ∧ allAlpha 0x415A617A = true := by decide

/-- For CRCINIT, CRCB, RDCRC, PUSHW, CLRW, FaultsAreExactlyTheTable and the sequences: a block with no error. -/
theorem witness_no_error : (on Block.reset).block.err = 0 ∧ (on Block.reset).block.w = 0 ∧
    (on Block.reset).block.wc = 0 := by decide

/-- The three clauses of ChkComparesTheStoredChecksum. -/
theorem witness_chk_clauses :
    (full 0).err = 0 ∧ { full 0 with wc := 5 }.wc ≠ 4 ∧
    ((full 1).wc = 4 ∧ (full 1).crc ^^^ 0xFFFFFFFF ≠ (full 1).w) ∧
    ((full 0).wc = 4 ∧ (full 0).crc ^^^ 0xFFFFFFFF = (full 0).w) := by decide

/-- The three clauses of SetavlSetsTheBufferSize, at 11 and 12. -/
theorem witness_setavl_clauses :
    (full 11).err = 0 ∧ { full 12 with wc := 3 }.wc ≠ 4 ∧ ((full 11).wc = 4 ∧ (full 11).w.toNat < 12) ∧
    ((full 12).wc = 4 ∧ 12 ≤ (full 12).w.toNat) := by decide

/-- The three clauses of LatlenLatchesTheLength: incomplete, one byte too long, exactly fitting, and unchecked. -/
theorem witness_latlen_clauses :
    (full 6).err = 0 ∧ { full 6 with wc := 5 }.wc ≠ 4 ∧
    ({ full 6 with avl := 17, avlv := true }.avlv = true ∧
      ({ full 6 with avl := 17, avlv := true } : Block).avl.toNat < (full 6).w.toNat + 12) ∧
    (({ full 5 with avl := 17, avlv := true } : Block).w.toNat + 12 ≤ (17#32).toNat) ∧
    ((full 0xFFFFFFFF).avlv = true → (full 0xFFFFFFFF).w.toNat + 12 ≤ (full 0xFFFFFFFF).avl.toNat) := by decide

/-- RdlenReadsTheLatchedLength, RdtypReadsTheLatchedTypeCode, RdflgReadsTheFlags: latched and not. -/
theorem witness_latched :
    Block.reset.err = 0 ∧ Block.reset.lenv = false ∧ Block.reset.typv = false ∧
    { Block.reset with lenv := true }.lenv = true ∧ { Block.reset with typv := true }.typv = true := by decide

/-- LattypLatchesRawBytes and LattypsLatchesFourLetters: incomplete, a non-letter in the last byte, four letters. -/
theorem witness_lattyps_clauses :
    (full 0x52755374).err = 0 ∧ { full 0x527553 with wc := 3 }.wc ≠ 4 ∧
    ((full 0x5275535B).wc = 4 ∧ isAlpha ((full 0x5275535B).w.extractLsb' 0 8) = false) ∧
    ((full 0x41417A5A).wc = 4 ∧ isAlpha ((full 0x41417A5A).w.extractLsb' 24 8) = true ∧
      isAlpha ((full 0x41417A5A).w.extractLsb' 16 8) = true ∧ isAlpha ((full 0x41417A5A).w.extractLsb' 8 8) = true ∧
      isAlpha ((full 0x41417A5A).w.extractLsb' 0 8) = true) := by decide

/-- StepKeepsTheInvariant, in a block halted by `Truncated` that takes one more cycle. -/
theorem witness_invariant :
    ({ full 5 with avl := 16, avlv := true, err := 2 } : Block).Inv ∧
    (nextOf (step ((on { full 5 with avl := 16, avlv := true, err := 2 }).presenting 0x2005))).isSome = true := by
  decide

/-- FaultEntryIsPrecise: SETAVL of 11 bytes, and a reserved word. -/
theorem witness_fault_entry :
    (full 11).err = 0 ∧ (nextOf (runWord 0x2200 (on (full 11)))).map (·.block.err) = some 1 ∧
    (nextOf (runWord 0xFFFF (on (full 11)))).map (·.block.err) = some 6 := by decide

/-- ClrResetsTheWholeBlock (its last clause), HaltIsLeftOnlyByClrOrReset and HaltedBlockObeysOnlyClrAndRdst: a halted block that stays, and one that CLR
resets. -/
theorem witness_halted :
    { full 11 with err := 1 }.err ≠ 0 ∧
    (nextOf (step ((on { full 11 with err := 1 }).presenting 0x2100))).map (·.block)
      = some { full 11 with err := 1 } ∧
    (nextOf (step ((on { full 11 with err := 1 }).presenting 0x0100))).map (·.block) = some Block.reset := by decide

/-- ConsumingCommandsNeedACompleteWord: an incomplete word, a word consumed, and a complete word that faults. -/
theorem witness_consuming :
    ({ full 5 with wc := 3 } : Block).wc ≠ 4 ∧ (nextOf (exec .lattyp (on (full 5)))).map (·.block.err) = some 0 ∧
    (nextOf (exec .setavl (on (full 5)))).map (·.block.err) = some 1 := by decide

/-- EachRegisterHasItsWriters: every register does change under some command. -/
theorem witness_writers :
    (nextOf (exec (.crcb 0) (on Block.reset))).map (·.block.crc) = some 0x2DFD1072 ∧
    (nextOf (exec (.pushw 1) (on Block.reset))).map (·.block.w) = some 1 ∧
    (nextOf (exec .latlen (on (full 5)))).map (·.block.len) = some 5 ∧
    (nextOf (exec .lattyp (on (full 5)))).map (·.block.typ) = some 5 ∧
    (nextOf (exec .setavl (on (full 12)))).map (·.block.avl) = some 12 ∧
    (nextOf (exec .chk (on (full 0)))).map (·.block.crcOk) = some true := by decide

/-- ReadsHaveNoSideEffect: RDCRC of a block in use has an output. -/
theorem witness_read : (nextOf (exec .rdcrc (on (full 5)))).bind (·.out) = some 0 := by decide

/-- CrcOkMeansAMatchAndNoChangeSince: a CHK that sets it, and a step that keeps it. -/
theorem witness_crc_ok :
    (nextOf (step ((on (full 0)).presenting 0x1300))).map (·.block.crcOk) = some true ∧
    (nextOf (step ((on { full 7 with crcOk := true }).presenting 0x2100))).map (·.block.crcOk) = some true := by
  decide

/-- OutputsDoNotShowTheAssemblerOrTheBufferSize: RDST of two blocks that differ in `W` and `AVL`. -/
theorem witness_outputs :
    (nextOf (runWord 0x0200 (on (full 5)))).bind (·.out) = some 0x400 ∧
    (nextOf (runWord 0x0200 (on { full 6 with avl := 13 }))).bind (·.out) = some 0x400 := by decide

/-- FeedingCommutesWithPushingAndLatching: a push, and a latch of a complete word. -/
theorem witness_commute : (full 5).err = 0 ∧ (full 5).wc = 4 ∧ ∃ b, Instr.pushw 7 = .pushw b :=
  ⟨rfl, rfl, 7, rfl⟩

theorem witness_feed : ([0x72] : List Byte) ≠ [] := by decide

/-- VerifySequenceGivesTheVerdict: the smallest chunk is accepted, and each error has its buffer. -/
theorem witness_verdicts :
    parseVerdict [0, 0, 0, 0, 0x49, 0x45, 0x4E, 0x44, 0xAE, 0x42, 0x60, 0x82] = none ∧
    parseVerdict [0, 0, 0, 0, 0x49, 0x45, 0x4E, 0x44, 0xAE, 0x42, 0x60] = some .tooShort ∧
    parseVerdict [0, 0, 0, 1, 0x49, 0x45, 0x4E, 0x44, 0xAE, 0x42, 0x60, 0x82] = some .truncated ∧
    parseVerdict [0, 0, 0, 0, 0x49, 0x45, 0x4E, 0x45, 0xAE, 0x42, 0x60, 0x82] = some .crcMismatch := by
  decide +kernel

/-- VerifySequenceLength: a buffer that holds its chunk exactly. -/
theorem witness_buffer_holds_chunk :
    chunkSize (declaredLength [0, 0, 0, 0, 0x49, 0x45, 0x4E, 0x44, 0xAE, 0x42, 0x60, 0x82]).toNat ≤ 12 := by decide

theorem witness_payload_length : ([0x68, 0x65] : List Byte).length < 2 ^ 32 := by decide

end Sys2Proof.Tests
end

section
/-! PROOFS. The step of the model (00_scope.md R5, R6): it answers a next state from every state, and the cycles that
wait at the ports have no part in what a cycle does to the block. -/

namespace Sys2Proof.Machine

/-! ### What a cycle does is told by the block alone -/

/-- `act` answers a next state that keeps the pending cycles, and whose block and output are told by the block alone:
neither what is pending nor the output of the step before has a part in them. -/
def AnswersFromBlock (act : State → Host.Outcome State Fault Refusal) : Prop :=
  ∀ b : Block, ∃ (b' : Block) (o : Option Word), ∀ (inputs : List PortCycle) (out : Option Word),
    act ⟨b, inputs, out⟩ = .next ⟨b', inputs, o⟩

theorem answersFromBlock_quiet : AnswersFromBlock fun s => .next (quiet s) :=
  fun b => ⟨b, none, fun _ _ => rfl⟩

theorem answersFromBlock_returnToReset : AnswersFromBlock fun s => .next (returnToReset s) :=
  fun _ => ⟨Block.reset, none, fun _ _ => rfl⟩

theorem answersFromBlock_settle (f : Block → Effect) :
    AnswersFromBlock fun s => .next (settle (f s.block) s) := by
  intro b
  cases hf : f b with
  | write b' => exact ⟨b', none, fun _ _ => by simp only [hf, settle]⟩
  | output v => exact ⟨b, some v, fun _ _ => by simp only [hf, settle]⟩
  | raise e => exact ⟨{ b with err := e.code }, none, fun _ _ => by simp only [hf, settle, enterFault]⟩

/-- The halt rule reads the block alone. -/
theorem answersFromBlock_actUnlessHalted (f : Block → Effect) : AnswersFromBlock (actUnlessHalted f) := by
  intro b
  by_cases hb : b.halted
  · obtain ⟨b', o, h⟩ := answersFromBlock_quiet b
    exact ⟨b', o, fun inputs out => (actUnlessHalted_halted hb).trans (h inputs out)⟩
  · obtain ⟨b', o, h⟩ := answersFromBlock_settle f b
    exact ⟨b', o, fun inputs out => (actUnlessHalted_active (not_not.mp hb)).trans (h inputs out)⟩

theorem answersFromBlock_exec (i : Instr) : AnswersFromBlock (exec i) := by
  intro b
  by_cases hb : actsHalted i = false ∧ b.halted
  · obtain ⟨hi, hhalted⟩ := hb
    obtain ⟨b', o, h⟩ := answersFromBlock_quiet b
    exact ⟨b', o, fun inputs out => (exec_halted hi hhalted).trans (h inputs out)⟩
  · obtain ⟨b', o, h⟩ := answersFromBlock_settle (effectOf i) b
    refine ⟨b', o, fun inputs out => ?_⟩
    rw [exec_eq_settle, if_neg hb]
    exact h inputs out

theorem answersFromBlock_runWord (cw : CommandWord) : AnswersFromBlock (runWord cw) := by
  cases hd : decode cw with
  | command i => rw [funext (runWord_command hd)]; exact answersFromBlock_exec i
  | illegal why => rw [funext (runWord_illegal hd)]; exact answersFromBlock_actUnlessHalted _

theorem answersFromBlock_runCycle (c : PortCycle) : AnswersFromBlock (runCycle c) := by
  obtain ⟨rst, valid, cw⟩ := c
  match rst, valid with
  | true, _ => exact answersFromBlock_returnToReset
  | false, true => exact answersFromBlock_runWord cw
  | false, false => exact answersFromBlock_quiet

/-! ### One step -/

/-- With nothing pending the step is an idle cycle (log entry 2). -/
theorem step_of_inputs_nil {s : State} (h : s.inputs = []) : step s = .next (quiet s) := by
  simp [step, runNextCycle, takeCycle, h, runCycle, idleCycle]

/-- Settles O8: the idle cycle leaves the block and shows no output. -/
theorem noPendingCycleIsAnIdleCycle : Obligations.NoPendingCycleIsAnIdleCycle :=
  fun _ h => step_of_inputs_nil h

/-- Settles O13: with nothing pending the step is idle; otherwise it runs the oldest cycle on the state that holds the
others, and every cycle answers a next state that keeps them. -/
theorem everyStepAnswersNext : Obligations.EveryStepAnswersNext := by
  intro s
  cases hin : s.inputs with
  | nil => exact ⟨quiet s, step_of_inputs_nil hin, hin⟩
  | cons c rest =>
    obtain ⟨b', o, hrun⟩ := answersFromBlock_runCycle c s.block
    exact ⟨⟨b', rest, o⟩, (step_of_inputs_cons hin).trans (hrun rest s.out), rfl⟩

/-! ### Runs -/

/-- A run goes on from the answer of its first step. -/
theorem core_run_succ {s t : State} (h : step s = .next t) (k : Nat) :
    Host.Core.run core (k + 1) s = Host.Core.run core k t := by
  have hcore : core.step s = .next t := h
  simp only [Host.Core.run, hcore]

/-- A run of words goes on from the answer to its first word. -/
theorem runWords_cons {cw : CommandWord} {s t : State} (h : present cw s = .next t) (rest : List CommandWord) :
    runWords (cw :: rest) s = runWords rest t := by
  simp only [runWords, h]

/-- Settles O14, by induction on the words: the first word is run by both machines on the same block, so both go on
from states that differ in nothing but the words that wait. -/
theorem pendingWordsRunInOrder : Obligations.PendingWordsRunInOrder := by
  intro cws
  induction cws with
  | nil =>
    rintro ⟨b, inputs, out⟩ rfl
    rfl
  | cons cw rest ih =>
    rintro ⟨b, inputs, out⟩ rfl
    obtain ⟨b', o, hrun⟩ := answersFromBlock_runWord cw b
    have hstep : step ⟨b, commandCycle cw :: rest.map commandCycle, out⟩
        = .next ⟨b', rest.map commandCycle, o⟩ := hrun _ out
    have hpresent : present cw ⟨b, [], out⟩ = .next ⟨b', [], o⟩ := hrun [] out
    rw [runWords_cons hpresent]
    exact (core_run_succ hstep rest.length).trans (ih ⟨b', [], o⟩ rfl)

end Sys2Proof.Machine
end

section
/-! PROOFS. The command word read back and presented: decoding inverts encoding (30_encoding.md R45 to R49), a
placed word runs next, the reset input resets, and a run of commands goes on from the answer of each. -/

namespace Sys2Proof

/-! ### Encode and decode -/

/-- Every format N row holds a command of that opcode with a zero operand (R46, R48). -/
theorem formatNRows_spec : ∀ row ∈ formatNRows, row.2.opcode = row.1 ∧ row.2.operand = 0 := by decide

theorem formatNCommand_spec {opc : Byte} {i : Instr} (h : formatNCommand opc = some i) :
    i.opcode = opc ∧ i.operand = 0 := by
  obtain ⟨row, hfind, rfl⟩ := Option.map_eq_some_iff.mp h
  have hopc : row.1 = opc := by simpa using List.find?_some hfind
  obtain ⟨hcode, hzero⟩ := formatNRows_spec row (List.mem_of_find?_eq_some hfind)
  exact ⟨hcode.trans hopc, hzero⟩

/-- A word that decodes to a command has the command's opcode and operand in its two fields. -/
theorem fields_of_decode {cw : CommandWord} {i : Instr} (h : decode cw = .command i) :
    i.opcode = opcField cw ∧ i.operand = immField cw := by
  simp only [decode] at h
  split at h
  · next hopc => cases h; exact ⟨hopc.symm, rfl⟩
  split at h
  · next hopc => cases h; exact ⟨hopc.symm, rfl⟩
  split at h
  · next hrow =>
    split at h
    · next himm =>
      cases h
      obtain ⟨hcode, hzero⟩ := formatNCommand_spec hrow
      exact ⟨hcode, hzero.trans himm.symm⟩
    · cases h
  · cases h

/-- Only a command's own word decodes to it. -/
theorem encode_of_decode {cw : CommandWord} {i : Instr} (h : decode cw = .command i) : encode i = cw := by
  obtain ⟨hopc, himm⟩ := fields_of_decode h
  rw [encode, hopc, himm, fields_of_word]

/-- A command's word decodes to it: the decoder reads the two fields, and each opcode has its row. -/
theorem decode_encode (i : Instr) : decode (encode i) = .command i := by
  rw [decode, opcField_encode, immField_encode]
  cases i <;> rfl

/-- A table row spells the command that its word decodes to. -/
theorem decodeTableWord_eq_some {nbits w : Nat} {i : Instr} (h : decodeTableWord nbits w = some i) :
    decode (tableWord nbits w) = .command i := by
  unfold decodeTableWord at h
  cases hd : decode (tableWord nbits w) with
  | command j => rw [hd] at h; exact congrArg _ (Option.some.inj h)
  | illegal why => rw [hd] at h; cases h

namespace Machine

/-! ### Reset, and the placed word -/

/-- A cycle with `rst = 1` returns to reset, whatever else it drives (R130, R133). -/
theorem runCycle_of_rst {c : PortCycle} (h : c.rst = true) (s : State) :
    runCycle c s = .next (returnToReset s) := if_pos h

/-- Settles O6: the reset state is written out in its definition, and CLR and the reset input return to it. -/
theorem resetAndClrReachTheResetState : Obligations.ResetAndClrReachTheResetState := by
  refine ⟨rfl, rfl, rfl, fun _ => rfl, fun s c rest hin hrst => ?_⟩
  exact (step_of_inputs_cons hin).trans (runCycle_of_rst hrst _)

/-- Settles O10: the placed word is the oldest cycle, so the step runs it on the state it was placed in. -/
theorem withFetchWordRunsNext : Obligations.WithFetchWordRunsNext := by
  intro s w i h
  exact (present_eq_runWord _ s).trans (runWord_command (decodeTableWord_eq_some h) s)

/-! ### Runs of commands -/

theorem present_encode (i : Instr) (s : State) : present (encode i) s = exec i s :=
  (present_eq_runWord _ s).trans (runWord_command (decode_encode i) s)

theorem runCommands_nil (s : State) : runCommands [] s = .next s := rfl

/-- A run of commands goes on from the answer to its first command. -/
theorem runCommands_cons {i : Instr} {s t : State} (h : exec i s = .next t) (cs : List Instr) :
    runCommands (i :: cs) s = runCommands cs t :=
  runWords_cons ((present_encode i s).trans h) (cs.map encode)

end Machine
end Sys2Proof
end

section
/-! PROOFS. The word assembler (10_state.md R12, 42_word_length.md R75, R78): one push as an update of the block, a
run of pushes, and the big-endian word four of them spell. -/

namespace Sys2Proof.Machine

/-- The block after a push (R78). -/
def Block.push (b : Block) (imm : Byte) : Block := { b with w := pushByte b.w imm, wc := bumpCount b.wc }

@[simp] theorem push_crc (b : Block) (imm : Byte) : (b.push imm).crc = b.crc := rfl
@[simp] theorem push_w (b : Block) (imm : Byte) : (b.push imm).w = pushByte b.w imm := rfl
@[simp] theorem push_wc (b : Block) (imm : Byte) : (b.push imm).wc = bumpCount b.wc := rfl
@[simp] theorem push_len (b : Block) (imm : Byte) : (b.push imm).len = b.len := rfl
@[simp] theorem push_lenv (b : Block) (imm : Byte) : (b.push imm).lenv = b.lenv := rfl
@[simp] theorem push_typ (b : Block) (imm : Byte) : (b.push imm).typ = b.typ := rfl
@[simp] theorem push_typv (b : Block) (imm : Byte) : (b.push imm).typv = b.typv := rfl
@[simp] theorem push_avl (b : Block) (imm : Byte) : (b.push imm).avl = b.avl := rfl
@[simp] theorem push_avlv (b : Block) (imm : Byte) : (b.push imm).avlv = b.avlv := rfl
@[simp] theorem push_err (b : Block) (imm : Byte) : (b.push imm).err = b.err := rfl
@[simp] theorem push_crcOk (b : Block) (imm : Byte) : (b.push imm).crcOk = b.crcOk := rfl

theorem exec_pushw (imm : Byte) {s : State} (h : s.block.err = 0) :
    exec (.pushw imm) s = .next { s with block := s.block.push imm, out := none } :=
  exec_active (.pushw imm) h

/-- A run of pushes pushes its bytes in order. -/
theorem runCommands_pushBytes (imm : Byte) (bytes : List Byte) {s : State} (h : s.block.err = 0) :
    runCommands (pushBytes (imm :: bytes)) s =
      .next { s with block := (imm :: bytes).foldl Block.push s.block, out := none } := by
  induction bytes generalizing imm s with
  | nil => exact (runCommands_cons (exec_pushw imm h) []).trans (runCommands_nil _)
  | cons next rest ih => exact (runCommands_cons (exec_pushw imm h) _).trans (ih next h)

/-! ### The word as a number and as four bytes -/

/-- A push as a number: the old word times 256 plus the byte, in 32 bits. -/
theorem pushByte_toNat (w : Word) (imm : Byte) :
    (pushByte w imm).toNat = (w.toNat * 256 + imm.toNat) % 2 ^ 32 := by
  have himm : imm.toNat < 2 ^ 8 := imm.isLt
  have hshift : (w <<< 8).toNat = 2 ^ 8 * (w.toNat % 2 ^ 24) := by
    rw [BitVec.toNat_shiftLeft, Nat.shiftLeft_eq]; omega
  have hbyte : (imm.setWidth 32).toNat = imm.toNat := by
    rw [BitVec.toNat_setWidth]; omega
  rw [pushByte, BitVec.toNat_or, hshift, hbyte, ← Nat.two_pow_add_eq_or_of_lt himm]
  omega

/-- A push into a word of `k` bytes gives a word of `k + 1` bytes. -/
theorem pushByte_toNat_lt {w : Word} {k : Nat} (h : w.toNat < 256 ^ k) (imm : Byte) :
    (pushByte w imm).toNat < 256 ^ (k + 1) := by
  have himm : imm.toNat < 256 := imm.isLt
  have hle : (pushByte w imm).toNat ≤ w.toNat * 256 + imm.toNat := by
    rw [pushByte_toNat]; exact Nat.mod_le _ _
  rw [Nat.pow_succ]
  omega

/-- A push drops the first of the four bytes and appends the new one. -/
theorem pushByte_be32 (b0 b1 b2 b3 imm : Byte) : pushByte (be32 b0 b1 b2 b3) imm = be32 b1 b2 b3 imm := by
  apply BitVec.eq_of_getLsbD_eq
  intro i hi
  simp only [pushByte_getLsbD, be32_getLsbD, hi, decide_true, Bool.true_and, Nat.sub_sub]
  split
  · rfl
  · simp only [show i - 8 < 8 ↔ i < 16 by omega, show i - 8 < 16 ↔ i < 24 by omega,
      show i - 8 < 24 by omega, ↓reduceIte]

/-- A word is the big-endian word of its four bytes (R76). -/
theorem be32_bytes (v : Word) : be32 (byteOf 0 v) (byteOf 1 v) (byteOf 2 v) (byteOf 3 v) = v := by
  apply BitVec.eq_of_getLsbD_eq
  intro i hi
  rw [be32_getLsbD]
  simp only [byteOf, BitVec.getLsbD_extractLsb']
  split_ifs with h8 h16 h24
  · simp [h8]
  · simp [show i - 8 < 8 by omega, show 8 + (i - 8) = i by omega]
  · simp [show i - 16 < 8 by omega, show 16 + (i - 16) = i by omega]
  · simp [show i - 24 < 8 by omega, show 24 + (i - 24) = i by omega]

/-- Four bytes pushed into an empty word spell their big-endian word. -/
theorem pushByte_four (b0 b1 b2 b3 : Byte) :
    pushByte (pushByte (pushByte (pushByte 0 b0) b1) b2) b3 = be32 b0 b1 b2 b3 := by
  rw [show (0 : Word) = be32 0 0 0 0 by decide]
  simp only [pushByte_be32]

/-- The block after four pushes into an empty assembler. -/
theorem foldl_push_four {b : Block} (hw : b.w = 0) (hwc : b.wc = 0) (b0 b1 b2 b3 : Byte) :
    [b0, b1, b2, b3].foldl Block.push b = { b with w := be32 b0 b1 b2 b3, wc := 4 } := by
  simp only [List.foldl, Block.push, hw, hwc, pushByte_four]
  rfl

theorem runCommands_four_pushes {s : State} (herr : s.block.err = 0) (hw : s.block.w = 0) (hwc : s.block.wc = 0)
    (b0 b1 b2 b3 : Byte) :
    runCommands (pushBytes [b0, b1, b2, b3]) s =
      .next { s with block := { s.block with w := be32 b0 b1 b2 b3, wc := 4 }, out := none } := by
  rw [runCommands_pushBytes b0 _ herr, foldl_push_four hw hwc]

/-- Settles O53: PUSH32 is the four pushes of the word's own bytes, and the fifth push follows the fourth in the
fold. -/
theorem fourPushesSpellTheWord : Obligations.FourPushesSpellTheWord := by
  intro s herr hw hwc
  refine ⟨runCommands_four_pushes herr hw hwc, fun v => ?_, fun b0 b1 b2 b3 b4 => ?_⟩
  · rw [push32, be4, runCommands_four_pushes herr hw hwc, be32_bytes]
  · have hfold : [b0, b1, b2, b3, b4].foldl Block.push s.block
        = { s.block with w := be32 b1 b2 b3 b4, wc := 5 } := by
      rw [show [b0, b1, b2, b3, b4] = [b0, b1, b2, b3] ++ [b4] from rfl, List.foldl_append,
        foldl_push_four hw hwc]
      simp only [List.foldl, Block.push, pushByte_be32]
      rfl
    exact (runCommands_pushBytes b0 [b1, b2, b3, b4] herr).trans (by rw [hfold])

end Sys2Proof.Machine
end

section
/-! PROOFS. What a command and a step can do to the block, said once (00_scope.md R5, 60_exceptions.md R111, R113,
R114): nothing, the reset, an error whose cause stands in the registers, or the writes of one command under their
conditions. -/

namespace Sys2Proof.Machine

/-! ### The two gates -/

/-- A command behind the gate of a complete word writes only where the word is complete. -/
theorem write_of_withCompleteWord {e : ErrKind} {b b' : Block} {use : Word → Effect}
    (h : withCompleteWord e b use = .write b') : b.wc = 4 ∧ use b.w = .write b' := by
  by_cases hwc : b.wc = 4
  · exact ⟨hwc, (withCompleteWord_complete hwc).symm.trans h⟩
  · rw [withCompleteWord_incomplete hwc] at h; cases h

/-- A command behind the gate of a complete word raises the gate's error or, with a complete word, its own. -/
theorem raise_of_withCompleteWord {e k : ErrKind} {b : Block} {use : Word → Effect}
    (h : withCompleteWord e b use = .raise k) : b.wc ≠ 4 ∧ e = k ∨ b.wc = 4 ∧ use b.w = .raise k := by
  by_cases hwc : b.wc = 4
  · exact .inr ⟨hwc, (withCompleteWord_complete hwc).symm.trans h⟩
  · rw [withCompleteWord_incomplete hwc] at h; exact .inl ⟨hwc, Effect.raise.inj h⟩

@[simp] theorem readLatched_ne_write (valid : Bool) (v : Word) (b : Block) : readLatched valid v ≠ .write b := by
  cases valid <;> simp

@[simp] theorem readLatched_eq_raise {valid : Bool} {v : Word} {k : ErrKind} :
    readLatched valid v = .raise k ↔ valid = false ∧ .seqError = k := by
  cases valid <;> simp

/-! ### Writes -/

/-- What each command that writes registers makes of the block, and the conditions under which it does (R65 to R68,
R78 to R81, R97, R98, R105, R106). -/
inductive Writes : Instr → Block → Block → Prop where
  | nop (b : Block) : Writes .nop b b
  | clr (b : Block) : Writes .clr b Block.reset
  | crcinit (b : Block) : Writes .crcinit b { b with crc := crcInit, crcOk := false }
  | crcb (b : Block) (imm : Byte) : Writes (.crcb imm) b { b with crc := crcStep b.crc imm, crcOk := false }
  | chk {b : Block} (complete : b.wc = 4) (agrees : crcFinish b.crc = b.w) :
      Writes .chk b { b.clearWord with crcOk := true }
  | pushw (b : Block) (imm : Byte) : Writes (.pushw imm) b (b.push imm)
  | clrw (b : Block) : Writes .clrw b b.clearWord
  | setavl {b : Block} (complete : b.wc = 4) (large : 12 ≤ b.w.toNat) :
      Writes .setavl b { b.clearWord with avl := b.w, avlv := true }
  | latlen {b : Block} (complete : b.wc = 4) (inside : b.avlv = true → fits b.avl b.w = true) :
      Writes .latlen b { b.clearWord with len := b.w, lenv := true }
  | lattyp {b : Block} (complete : b.wc = 4) : Writes .lattyp b { b.clearWord with typ := b.w, typv := true }
  | lattyps {b : Block} (complete : b.wc = 4) (letters : allAlpha b.w = true) :
      Writes .lattyps b { b.clearWord with typ := b.w, typv := true }

/-- The writes of the meanings are those of `Writes`. -/
theorem writes_of_effectOf {i : Instr} {b b' : Block} (h : effectOf i b = .write b') : Writes i b b' := by
  cases i with
  | nop => cases h; exact .nop b
  | clr => cases h; exact .clr b
  | crcinit => cases h; exact .crcinit b
  | crcb imm => cases h; exact .crcb b imm
  | pushw imm => cases h; exact .pushw b imm
  | clrw => cases h; exact .clrw b
  | rdst | rdcrc => cases h
  | rdlen | rdtyp | rdflg => exact absurd h (readLatched_ne_write _ _ _)
  | chk =>
    rw [effectOf] at h
    obtain ⟨hwc, huse⟩ := write_of_withCompleteWord h
    split at huse
    · next heq => cases huse; exact .chk hwc heq
    · cases huse
  | setavl =>
    rw [effectOf] at h
    obtain ⟨hwc, huse⟩ := write_of_withCompleteWord h
    split at huse
    · cases huse
    · next hmin => cases huse; exact .setavl hwc (not_lt.mp (mt (lt_minChunk_iff _).mpr hmin))
  | latlen =>
    rw [effectOf] at h
    obtain ⟨hwc, huse⟩ := write_of_withCompleteWord h
    split at huse
    · cases huse
    · next hfit => cases huse; exact .latlen hwc (by simpa using hfit)
  | lattyp =>
    rw [effectOf] at h
    obtain ⟨hwc, huse⟩ := write_of_withCompleteWord h
    cases huse; exact .lattyp hwc
  | lattyps =>
    rw [effectOf] at h
    obtain ⟨hwc, huse⟩ := write_of_withCompleteWord h
    split at huse
    · next hletters => cases huse; exact .lattyps hwc hletters
    · cases huse

/-! ### Errors -/

/-- What must hold of the registers for an error of each kind (R111, by kind). -/
def ErrKind.cause (e : ErrKind) (b : Block) : Prop :=
  match e with
  | .tooShort => b.wc = 4 ∧ b.w.toNat < 12
  | .truncated => b.wc = 4 ∧ b.avlv = true ∧ b.avl.toNat < b.w.toNat + 12
  | .crcMismatch => b.wc = 4 ∧ b.crc ^^^ 0xFFFFFFFF ≠ b.w
  | .invalidTypeCode => b.wc ≠ 4 ∨ allAlpha b.w = false
  | .seqError => b.wc ≠ 4 ∨ b.lenv = false ∨ b.typv = false
  | .illegalCommand => True

/-- The bound of LATLEN as numbers: at 34 bits the sum does not wrap (R84). -/
theorem fits_eq_false_iff (n l : Word) : fits n l = false ↔ n.toNat < l.toNat + 12 := by
  have hn : n.toNat < 2 ^ 32 := n.isLt
  have hl : l.toNat < 2 ^ 32 := l.isLt
  simp only [fits, decide_eq_false_iff_not, BitVec.le_def, BitVec.toNat_add, BitVec.toNat_setWidth,
    BitVec.toNat_ofNat]
  omega

/-- A command raises an error only where its cause stands. -/
theorem cause_of_effectOf {i : Instr} {b : Block} {e : ErrKind} (h : effectOf i b = .raise e) : e.cause b := by
  cases i with
  | nop | clr | rdst | crcinit | crcb | rdcrc | pushw | clrw => cases h
  | rdlen =>
    obtain ⟨hlenv, rfl⟩ := readLatched_eq_raise.mp h
    exact .inr (.inl hlenv)
  | rdtyp | rdflg =>
    obtain ⟨htypv, rfl⟩ := readLatched_eq_raise.mp h
    exact .inr (.inr htypv)
  | chk =>
    rw [effectOf] at h
    obtain ⟨hwc, rfl⟩ | ⟨hwc, huse⟩ := raise_of_withCompleteWord h
    · exact .inl hwc
    · split at huse
      · cases huse
      · next hne => cases huse; exact ⟨hwc, hne⟩
  | setavl =>
    rw [effectOf] at h
    obtain ⟨hwc, rfl⟩ | ⟨hwc, huse⟩ := raise_of_withCompleteWord h
    · exact .inl hwc
    · split at huse
      · next hmin => cases huse; exact ⟨hwc, (lt_minChunk_iff _).mp hmin⟩
      · cases huse
  | latlen =>
    rw [effectOf] at h
    obtain ⟨hwc, rfl⟩ | ⟨hwc, huse⟩ := raise_of_withCompleteWord h
    · exact .inl hwc
    · split at huse
      · next hfit =>
        cases huse
        obtain ⟨havlv, hfits⟩ : b.avlv = true ∧ fits b.avl b.w = false := by simpa using hfit
        exact ⟨hwc, havlv, (fits_eq_false_iff _ _).mp hfits⟩
      · cases huse
  | lattyp =>
    rw [effectOf] at h
    obtain ⟨hwc, rfl⟩ | ⟨_, huse⟩ := raise_of_withCompleteWord h
    · exact .inl hwc
    · cases huse
  | lattyps =>
    rw [effectOf] at h
    obtain ⟨hwc, rfl⟩ | ⟨_, huse⟩ := raise_of_withCompleteWord h
    · exact .inl hwc
    · split at huse
      · cases huse
      · next hletters => cases huse; exact .inr (Bool.eq_false_iff.mpr hletters)

/-! ### Commands and steps -/

/-- Everything a command that acts can do to the block. -/
theorem settle_effectOf_block_cases (i : Instr) (s : State) :
    (settle (effectOf i s.block) s).block = s.block ∨
    (∃ e : ErrKind, e.cause s.block ∧
      (settle (effectOf i s.block) s).block = { s.block with err := e.code }) ∨
    Writes i s.block (settle (effectOf i s.block) s).block := by
  cases hf : effectOf i s.block with
  | write b' => exact .inr (.inr (writes_of_effectOf hf))
  | output v => exact .inl rfl
  | raise e => exact .inr (.inl ⟨e, cause_of_effectOf hf, rfl⟩)

/-- Everything a command can do to the block; in a halted block, nothing or the reset (R114). -/
theorem exec_block_cases {i : Instr} {s t : State} (h : exec i s = .next t) :
    t.block = s.block ∨
    (i = .clr ∧ t.block = Block.reset) ∨
    (s.block.err = 0 ∧ ∃ e : ErrKind, e.cause s.block ∧ t.block = { s.block with err := e.code }) ∨
    (s.block.err = 0 ∧ Writes i s.block t.block) := by
  by_cases herr : s.block.err = 0
  · rw [exec_active i herr] at h
    cases h
    obtain hsame | hraise | hwrite := settle_effectOf_block_cases i s
    · exact .inl hsame
    · exact .inr (.inr (.inl ⟨herr, hraise⟩))
    · exact .inr (.inr (.inr ⟨herr, hwrite⟩))
  · cases hi : actsHalted i with
    | false => rw [exec_halted hi herr] at h; cases h; exact .inl rfl
    | true =>
      cases i with
      | nop | rdst => cases h; exact .inl rfl
      | clr => cases h; exact .inr (.inl ⟨rfl, rfl⟩)
      | _ => cases hi

/-- Everything a word that spells no command can do to the block (R50, R114). -/
theorem illegalWord_block_cases {s t : State} (h : illegalWord s = .next t) :
    t.block = s.block ∨
    (s.block.err = 0 ∧ ∃ e : ErrKind, e.cause s.block ∧ t.block = { s.block with err := e.code }) := by
  by_cases herr : s.block.err = 0
  · rw [illegalWord_active herr] at h
    cases h; exact .inr ⟨herr, .illegalCommand, trivial, rfl⟩
  · rw [illegalWord_halted herr] at h
    cases h; exact .inl rfl

/-- The next cycle of the state presents a word that decodes to `i`. -/
def Presents (s : State) (i : Instr) : Prop :=
  ∃ c rest, s.inputs = c :: rest ∧ c.rst = false ∧ c.cmdValid = true ∧ decode c.cmd = .command i

/-- Everything a step can do to the block. -/
theorem step_block_cases {s t : State} (h : step s = .next t) :
    t.block = s.block ∨
    t.block = Block.reset ∨
    (s.block.err = 0 ∧ ∃ e : ErrKind, e.cause s.block ∧ t.block = { s.block with err := e.code }) ∨
    (s.block.err = 0 ∧ ∃ i, Presents s i ∧ Writes i s.block t.block) := by
  cases hin : s.inputs with
  | nil => rw [step_of_inputs_nil hin] at h; cases h; exact .inl rfl
  | cons c rest =>
    rw [step_of_inputs_cons hin] at h
    obtain ⟨_, hrun⟩ | ⟨_, _, hrun⟩ | ⟨hrst, hvalid, ⟨i, hd, hrun⟩ | ⟨_, _, hrun⟩⟩ :=
      runCycle_cases c { s with inputs := rest }
    all_goals rw [hrun] at h
    · cases h; exact .inr (.inl rfl)
    · cases h; exact .inl rfl
    · obtain hsame | ⟨_, hreset⟩ | hraise | ⟨herr, hwrite⟩ := exec_block_cases h
      · exact .inl hsame
      · exact .inr (.inl hreset)
      · exact .inr (.inr (.inl hraise))
      · exact .inr (.inr (.inr ⟨herr, i, ⟨c, rest, hin, hrst, hvalid, hd⟩, hwrite⟩))
    · obtain hsame | hraise := illegalWord_block_cases h
      · exact .inl hsame
      · exact .inr (.inr (.inl hraise))

end Sys2Proof.Machine
end

section
/-! PROOFS. What every step keeps of the state (10_state.md R10, R12 to R16): the invariant of the block, the writers
of each register, and the meaning of `ST.CRCOK`. -/

namespace Sys2Proof.Machine

/-! ### The invariant -/

/-- The part of `Block.Inv` that does not speak of a latched error. -/
structure Block.RegistersInv (b : Block) : Prop where
  count_le : b.wc.toNat ≤ 5
  word_lt : b.wc.toNat < 4 → b.w.toNat < 256 ^ b.wc.toNat
  len_eq_zero : b.lenv = false → b.len = 0
  typ_eq_zero : b.typv = false → b.typ = 0
  avl_eq_zero : b.avlv = false → b.avl = 0
  avl_large : b.avlv = true → 12 ≤ b.avl.toNat

theorem registersInv_of_inv {b : Block} (h : b.Inv) : b.RegistersInv := by
  obtain ⟨_, hcount, hword, hlen, htyp, havl, hlarge, _⟩ := h
  exact ⟨hcount, hword, hlen, htyp, havl, hlarge⟩

theorem inv_of_registersInv {b : Block} (h : b.RegistersInv) (hcode : b.err.toNat ≤ 6) (hcause : b.causeStands) :
    b.Inv :=
  ⟨hcode, h.count_le, h.word_lt, h.len_eq_zero, h.typ_eq_zero, h.avl_eq_zero, h.avl_large, hcause⟩

/-- With no error latched the invariant is that of the registers. -/
theorem inv_of_err_zero {b : Block} (h : b.RegistersInv) (herr : b.err = 0) : b.Inv :=
  inv_of_registersInv h (by simp [herr]) (by simp [Block.causeStands, herr])

theorem errKind_code_le_six (e : ErrKind) : e.code.toNat ≤ 6 := by
  cases e <;> decide

/-- An error latched with its cause keeps the invariant: no register changes. -/
theorem inv_raise {b : Block} {e : ErrKind} (h : b.RegistersInv) (hcause : e.cause b) :
    ({ b with err := e.code } : Block).Inv := by
  refine inv_of_registersInv { h with } (errKind_code_le_six e) ?_
  cases e with
  | illegalCommand => simp [Block.causeStands, ErrKind.code]
  | _ => simpa [Block.causeStands, ErrKind.code, ErrKind.cause] using hcause

/-- Settles O42: at reset no error is latched, no byte is pushed and every register of the invariant is 0. -/
theorem resetMeetsTheInvariant : Obligations.ResetMeetsTheInvariant := by
  unfold Obligations.ResetMeetsTheInvariant
  decide

/-- Clearing the assembler leaves no byte in it. -/
theorem registersInv_clearWord {b : Block} (h : b.RegistersInv) : b.clearWord.RegistersInv :=
  { h with
    count_le := Nat.zero_le 5
    word_lt := fun _ => Nat.one_pos }

/-- A push keeps the invariant: the word grows by one byte with the count, until the count passes 4. -/
theorem registersInv_push {b : Block} (h : b.RegistersInv) (imm : Byte) : (b.push imm).RegistersInv :=
  { h with
    count_le := by simp [bumpCount_toNat]
    word_lt := by
      intro hcount
      rw [push_wc, bumpCount_toNat] at hcount ⊢
      have hbump : min (b.wc.toNat + 1) 5 = b.wc.toNat + 1 := by omega
      rw [hbump]
      exact pushByte_toNat_lt (h.word_lt (by omega)) imm }

theorem registersInv_reset : Block.reset.RegistersInv := registersInv_of_inv resetMeetsTheInvariant

/-- The writes of every command keep the invariant of the registers. -/
theorem registersInv_writes {i : Instr} {b b' : Block} (h : b.RegistersInv) (hw : Writes i b b') :
    b'.RegistersInv := by
  have hclear := registersInv_clearWord h
  cases hw with
  | nop => exact h
  | clr => exact registersInv_reset
  | crcinit | crcb => exact { h with }
  | pushw _ imm => exact registersInv_push h imm
  | clrw => exact hclear
  | chk => exact { hclear with }
  | setavl _ hlarge => exact { hclear with avl_eq_zero := nofun, avl_large := fun _ => hlarge }
  | latlen => exact { hclear with len_eq_zero := nofun }
  | lattyp | lattyps => exact { hclear with typ_eq_zero := nofun }

/-- No command writes an error code among its registers: what it writes in a block without one has none. -/
theorem err_writes {i : Instr} {b b' : Block} (herr : b.err = 0) (hw : Writes i b b') : b'.err = 0 := by
  cases hw with
  | clr => rfl
  | _ => exact herr

/-- Settles O43: a step leaves the block, resets it, latches an error whose cause stands in the registers, or makes
the writes of one command, which keep the invariant of the registers. -/
theorem stepKeepsTheInvariant : Obligations.StepKeepsTheInvariant := by
  intro s t hinv hstep
  have hregs := registersInv_of_inv hinv
  obtain hsame | hreset | ⟨_, e, hcause, hraise⟩ | ⟨herr, i, _, hwrite⟩ := step_block_cases hstep
  · rw [hsame]; exact hinv
  · rw [hreset]; exact resetMeetsTheInvariant
  · rw [hraise]; exact inv_raise hregs hcause
  · exact inv_of_err_zero (registersInv_writes hregs hwrite) (err_writes herr hwrite)

/-! ### The writers of each register -/

/-- Settles O48: a command that leaves the block or latches an error changes no register of the table, and the
writes of each command name the rest. -/
theorem eachRegisterHasItsWriters : Obligations.EachRegisterHasItsWriters := by
  intro i s t h
  obtain hsame | ⟨rfl, _⟩ | ⟨_, e, _, hraise⟩ | ⟨_, hwrite⟩ := exec_block_cases h
  · simp [hsame]
  · simp
  · simp [hraise]
  · generalize s.block = b, t.block = b' at hwrite ⊢
    cases hwrite <;> simp

/-! ### The meaning of CRCOK -/

/-- Among the writes, only a matching CHK sets `ST.CRCOK`, and no write that leaves it set changes `CRC`. -/
theorem crcOk_writes {i : Instr} {b b' : Block} (hw : Writes i b b') (hok : b'.crcOk = true) :
    b'.crc = b.crc ∧ (b.crcOk = true ∨ i = .chk ∧ b.wc = 4 ∧ crcFinish b.crc = b.w) := by
  cases hw with
  | clr | crcinit | crcb => cases hok
  | chk hwc heq => exact ⟨rfl, .inr ⟨rfl, hwc, heq⟩⟩
  | nop | pushw | clrw | setavl | latlen | lattyp | lattyps => exact ⟨rfl, .inl hok⟩

/-- Settles O50: of the four things a step can do, only the writes of a matching CHK set the bit anew, and a word
that decodes to CHK is 0x1300. -/
theorem crcOkMeansAMatchAndNoChangeSince : Obligations.CrcOkMeansAMatchAndNoChangeSince := by
  intro s t hstep hok
  obtain hsame | hreset | ⟨_, e, _, hraise⟩ | ⟨herr, i, hpresents, hwrite⟩ := step_block_cases hstep
  · rw [hsame] at hok ⊢; exact ⟨rfl, .inl hok⟩
  · rw [hreset] at hok; cases hok
  · rw [hraise] at hok ⊢; exact ⟨rfl, .inl hok⟩
  · obtain ⟨hcrc, hold | ⟨rfl, hwc, heq⟩⟩ := crcOk_writes hwrite hok
    · exact ⟨hcrc, .inl hold⟩
    · obtain ⟨c, rest, hin, hrst, hvalid, hd⟩ := hpresents
      exact ⟨hcrc, .inr ⟨herr, hwc, heq, c, rest, hin, hrst, hvalid, (encode_of_decode hd).symm⟩⟩

end Sys2Proof.Machine
end

section
/-! PROOFS. Reads have no side effect (20_memory.md R35, 10_state.md R24): the output of a command is that of its
effect, which writes no register, and only the read commands have such an effect. -/

namespace Sys2Proof.Machine

/-- The gate of a complete word has no output of its own. -/
theorem output_of_withCompleteWord {e : ErrKind} {b : Block} {use : Word → Effect} {v : Word}
    (h : withCompleteWord e b use = .output v) : use b.w = .output v := by
  by_cases hwc : b.wc = 4
  · exact (withCompleteWord_complete hwc).symm.trans h
  · rw [withCompleteWord_incomplete hwc] at h; cases h

/-- The effects with an output are those of the five reads. -/
theorem read_of_effectOf {i : Instr} {b : Block} {v : Word} (h : effectOf i b = .output v) :
    i = .rdst ∨ i = .rdcrc ∨ i = .rdlen ∨ i = .rdtyp ∨ i = .rdflg := by
  cases i with
  | rdst | rdcrc | rdlen | rdtyp | rdflg => simp
  | nop | clr | crcinit | crcb | pushw | clrw => cases h
  | lattyp => rw [effectOf] at h; cases output_of_withCompleteWord h
  | chk | setavl | latlen | lattyps =>
    rw [effectOf] at h
    have huse := output_of_withCompleteWord h
    split at huse <;> cases huse

/-- An applied effect shows an output exactly when it is that output. -/
theorem settle_out_eq_some {f : Effect} {s : State} {v : Word} : (settle f s).out = some v ↔ f = .output v := by
  cases f <;> simp

/-- A command that answers an output is not stopped by the halt rule, and its effect is that output. -/
theorem effectOf_of_exec_out {i : Instr} {s t : State} {v : Word} (h : exec i s = .next t) (hout : t.out = some v) :
    ¬(actsHalted i = false ∧ s.block.halted) ∧ effectOf i s.block = .output v := by
  rw [exec_eq_settle] at h
  cases h
  split at hout
  · cases hout
  · next hacts => exact ⟨hacts, settle_out_eq_some.mp hout⟩

/-- A command whose effect is an output, where the halt rule does not stop it. -/
theorem exec_output {i : Instr} {s : State} {v : Word} (hacts : ¬(actsHalted i = false ∧ s.block.halted))
    (heff : effectOf i s.block = .output v) : exec i s = .next { s with out := some v } := by
  rw [exec_eq_settle, if_neg hacts, heff, settle]

/-- Settles O49: a command with an output changes nothing but the output, so the same effect acts on the same block
again. -/
theorem readsHaveNoSideEffect : Obligations.ReadsHaveNoSideEffect := by
  intro i s t v h hout
  obtain ⟨hacts, heff⟩ := effectOf_of_exec_out h hout
  obtain rfl : { s with out := some v } = t := Host.Outcome.next.inj ((exec_output hacts heff).symm.trans h)
  exact ⟨read_of_effectOf heff, rfl, exec_output hacts heff⟩

end Sys2Proof.Machine
end

section
/-! PROOFS. The layout of a chunk in a buffer (20_memory.md R31, R33, R41, 42_word_length.md R83) and the document's
acceptance of a fresh one (41_crc.md R70 c, 60_exceptions.md R117). -/

namespace Sys2Proof.Machine

/-! ### Words in a buffer -/

/-- A word that stands at the start of what follows `front` stands right after `front` in the buffer. -/
theorem wordAt_append (front c : List Byte) : wordAt front.length (front ++ c) = wordAt 0 c := by
  simp [wordAt, List.getElem?_append_right]

/-- The four bytes of a word at the start of a buffer read back as the word (R31, R76). -/
theorem wordAt_zero_be4 (v : Word) (rest : List Byte) : wordAt 0 (be4 v ++ rest) = v := be32_bytes v

/-- The four bytes of a word after `pos` other bytes read back as the word. -/
theorem wordAt_be4 {front : List Byte} {pos : Nat} (hpos : front.length = pos) (v : Word) (rest : List Byte) :
    wordAt pos (front ++ (be4 v ++ rest)) = v := by
  rw [← hpos, wordAt_append, wordAt_zero_be4]

/-! ### A serialized chunk, and the bytes after it -/

theorem serialize_length (l t : Word) (d : List Byte) (c : Word) : (serialize l t d c).length = 12 + d.length := by
  simp only [serialize, List.length_append, be4_length]
  omega

theorem declaredLength_serialize (l t : Word) (d : List Byte) (c : Word) (rest : List Byte) :
    declaredLength (serialize l t d c ++ rest) = l := by
  simpa only [declaredLength, serialize, List.append_assoc] using wordAt_zero_be4 l _

theorem wordAt_four_serialize (l t : Word) (d : List Byte) (c : Word) (rest : List Byte) :
    wordAt 4 (serialize l t d c ++ rest) = t := by
  simpa only [serialize, List.append_assoc] using wordAt_be4 (be4_length l) t _

theorem coveredBytes_serialize (l t : Word) (d : List Byte) (c : Word) (rest : List Byte) :
    coveredBytes d.length (serialize l t d c ++ rest) = be4 t ++ d := by
  have hcovered : (be4 t ++ d).length = 4 + d.length := by rw [List.length_append, be4_length]
  have hsplit : serialize l t d c ++ rest = be4 l ++ ((be4 t ++ d) ++ (be4 c ++ rest)) := by
    simp only [serialize, List.append_assoc]
  rw [coveredBytes, hsplit, List.drop_left' (be4_length l), List.take_left' hcovered]

/-- The `crc` field stands right after the payload (R33). -/
theorem wordAt_crc_serialize (l t : Word) (d : List Byte) (c : Word) (rest : List Byte) :
    wordAt (8 + d.length) (serialize l t d c ++ rest) = c := by
  have hfront : (be4 l ++ be4 t ++ d).length = 8 + d.length := by simp only [List.length_append, be4_length]
  simpa only [serialize, List.append_assoc] using wordAt_be4 hfront c rest

/-! ### The verdict -/

/-- A buffer is accepted exactly when it holds the whole chunk that it declares and the checksum agrees (R117): a
buffer that holds its chunk has the 12 bytes of the smallest one. -/
theorem parseVerdict_eq_none_iff (c : List Byte) :
    parseVerdict c = none ↔
      chunkSize (declaredLength c).toNat ≤ c.length ∧
      crc32 (coveredBytes (declaredLength c).toNat c) = wordAt (8 + (declaredLength c).toNat) c := by
  have hmin : 12 ≤ chunkSize (declaredLength c).toNat := by rw [chunkSize]; omega
  rw [parseVerdict]
  split_ifs with hshort htrunc hcrc
  · exact iff_of_false nofun fun ⟨hsize, _⟩ => by omega
  · exact iff_of_false nofun fun ⟨hsize, _⟩ => by omega
  · exact iff_of_true rfl ⟨not_lt.mp htrunc, hcrc⟩
  · exact iff_of_false nofun fun ⟨_, heq⟩ => hcrc heq

/-- Settles O58: the fields of a serialized chunk stand where the layout says, so the length read back is the
payload's, the bytes covered are type and payload, and the checksum read back is theirs. -/
theorem freshChunkIsAccepted : Obligations.FreshChunkIsAccepted := by
  intro t d rest hd
  have hsize : (freshChunk t d).length = 12 + d.length := serialize_length ..
  have hlen : (declaredLength (freshChunk t d ++ rest)).toNat = d.length := by
    rw [freshChunk, declaredLength_serialize, BitVec.toNat_ofNat, Nat.mod_eq_of_lt hd]
  have hcovered : coveredBytes d.length (freshChunk t d ++ rest) = be4 t ++ d := coveredBytes_serialize ..
  have hcrc : wordAt (8 + d.length) (freshChunk t d ++ rest) = crc32 (be4 t ++ d) := wordAt_crc_serialize ..
  refine ⟨hsize, ?_, hlen, wordAt_four_serialize .., hcovered, hcrc⟩
  rw [parseVerdict_eq_none_iff, hlen, hcovered, hcrc, List.length_append, hsize, chunkSize]
  exact ⟨by omega, rfl⟩

end Sys2Proof.Machine
end

section
/-! PROOFS. Which words spell which command (30_encoding.md R45 to R50): a command has one word, told by the row of its
opcode; the number of command words; and the step that a presented word makes (60_exceptions.md R114). -/

namespace Sys2Proof

/-! ### A command and its one word -/

/-- Settles O2: the two fields of a command's word are its opcode and its operand, and the decoder reads both. -/
theorem decodeOfEncodeIsTheCommand : Obligations.DecodeOfEncodeIsTheCommand := decode_encode

/-- Settles O1: each word is decoded by its row of the opcode map, or by none. -/
theorem writtenWordsDecode : Obligations.WrittenWordsDecode := by
  unfold Obligations.WrittenWordsDecode
  decide

/-- A command is spelled by its own word and by no other (R49). -/
theorem decode_eq_command_iff {cw : CommandWord} {i : Instr} : decode cw = .command i ↔ encode i = cw :=
  ⟨encode_of_decode, fun h => h ▸ decode_encode i⟩

theorem encode_injective : Function.Injective encode := fun i _ h =>
  Decoded.command.inj ((decode_encode i).symm.trans (decode_eq_command_iff.mpr h.symm))

/-! ### Words by the rows of the opcode map -/

/-- A word is a command's word exactly when both fields are the command's. -/
theorem encode_eq_iff_fields {i : Instr} {cw : CommandWord} :
    encode i = cw ↔ opcField cw = i.opcode ∧ immField cw = i.operand := by
  constructor
  · rintro rfl
    exact ⟨opcField_encode i, immField_encode i⟩
  · rintro ⟨hopc, himm⟩
    rw [encode, ← hopc, ← himm, fields_of_word]

/-- The format B mask keeps the opcode and drops the operand (R46). -/
theorem and_formatB_mask (cw : CommandWord) : cw &&& 0xFF00#16 = (opcField cw).setWidth 16 <<< 8 := by
  have hmask : (0xFF00#16) = BitVec.allOnes 16 <<< 8 := by decide
  apply BitVec.eq_of_getLsbD_eq
  intro j hj
  rw [hmask, BitVec.getLsbD_and, BitVec.getLsbD_shiftLeft, BitVec.getLsbD_allOnes]
  by_cases h : j < 8
  · simp [h]
  · simp [opcField, h, hj, show j - 8 < 8 by omega, show j - 8 < 16 by omega, show 8 + (j - 8) = j by omega]

/-- An opcode is read back from its match value (R46). -/
theorem opcField_shiftLeft (opc : Byte) : opcField (opc.setWidth 16 <<< 8) = opc := by
  simpa using opcField_fields opc 0

/-- The test of a format B row: the opcode alone (R46). -/
theorem and_formatB_mask_eq_iff (cw : CommandWord) (opc : Byte) :
    cw &&& 0xFF00#16 = opc.setWidth 16 <<< 8 ↔ opcField cw = opc := by
  rw [and_formatB_mask]
  exact ⟨fun h => by rw [← opcField_shiftLeft (opcField cw), h, opcField_shiftLeft], fun h => h ▸ rfl⟩

/-- The test of a row whose command has a zero operand: its match value is the command's whole word (R46). -/
theorem and_formatN_mask_eq_iff (cw : CommandWord) {i : Instr} (h : i.operand = 0) :
    cw &&& 0xFFFF#16 = i.rowMatch ↔ encode i = cw := by
  have hmask : cw &&& 0xFFFF#16 = cw := BitVec.and_allOnes
  have hmatch : encode i = i.rowMatch := by simp [encode, Instr.rowMatch, h]
  rw [hmask, hmatch, eq_comm]

/-- Settles O3: a word spells a command exactly when it is the command's word. In format N the mask keeps the whole
word; in format B it keeps the opcode, and the operand is the other field. -/
theorem wordSpellsCommandExactlyByItsRow : Obligations.WordSpellsCommandExactlyByItsRow := by
  refine ⟨fun i => ⟨rfl, by cases i <;> rfl⟩, fun cw i => decode_eq_command_iff.trans ?_⟩
  cases i with
  | crcb imm | pushw imm =>
    rw [encode_eq_iff_fields]
    exact and_congr (and_formatB_mask_eq_iff cw _).symm eq_comm
  | _ => exact ((and_true _).to_iff.trans (and_formatN_mask_eq_iff cw rfl)).symm

/-! ### The number of command words -/

theorem natCard_bitVec (n : Nat) : Nat.card (BitVec n) = 2 ^ n :=
  (Nat.card_congr BitVec.equivFin.toEquiv).trans (Nat.card_fin _)

/-- The commands of format N, which carry no operand (R46, R48). -/
def formatNCommands : Finset Instr := (formatNRows.map Prod.snd).toFinset

theorem card_formatNCommands : formatNCommands.card = 14 := by decide

theorem format_of_mem_formatNCommands : ∀ i ∈ formatNCommands, i.mnemonic.format = .n := by decide

/-- Every command is one of format N, or one of the two of format B with its operand (R46, R48). -/
theorem univ_eq_formats :
    (Set.univ : Set Instr) = ↑formatNCommands ∪ (Set.range Instr.crcb ∪ Set.range Instr.pushw) := by
  refine (Set.eq_univ_of_forall fun i => ?_).symm
  cases i with
  | crcb imm => exact .inr (.inl ⟨imm, rfl⟩)
  | pushw imm => exact .inr (.inr ⟨imm, rfl⟩)
  | _ => exact .inl (Finset.mem_coe.mpr (by decide))

/-- The formats have no command in common, and in format B each operand makes a command of its own. -/
theorem natCard_instr : Nat.card Instr = 526 := by
  have hopcodes : Disjoint (Set.range Instr.crcb) (Set.range Instr.pushw) :=
    Set.disjoint_range_iff.mpr nofun
  have hformats : Disjoint (↑formatNCommands) (Set.range Instr.crcb ∪ Set.range Instr.pushw) := by
    rw [Set.disjoint_right]
    rintro _ (⟨imm, rfl⟩ | ⟨imm, rfl⟩) hmem
    · nomatch format_of_mem_formatNCommands _ hmem
    · nomatch format_of_mem_formatNCommands _ hmem
  rw [← Set.ncard_univ, univ_eq_formats, Set.ncard_union_eq hformats, Set.ncard_union_eq hopcodes,
    Set.ncard_coe_finset, card_formatNCommands,
    Set.ncard_range_of_injective fun _ _ => Instr.crcb.inj,
    Set.ncard_range_of_injective fun _ _ => Instr.pushw.inj, natCard_bitVec]
  rfl

theorem mem_range_encode (cw : CommandWord) : cw ∈ Set.range encode ↔ ∃ i, decode cw = .command i :=
  exists_congr fun _ => decode_eq_command_iff.symm

/-- Settles O4: there are as many command words as commands, and the ILLEGAL words are the rest of the 65536. -/
theorem commandWordCount : Obligations.CommandWordCount := by
  have hwords : (Set.range encode).ncard = 526 :=
    (Set.ncard_range_of_injective encode_injective).trans natCard_instr
  have hrest : (Set.range encode)ᶜ.ncard = 65010 :=
    Set.ncard_compl_of_ncard_eq_add _ (by rw [natCard_bitVec, hwords]; rfl)
  constructor
  · rw [← hwords]
    exact Nat.card_congr (Equiv.subtypeEquivRight fun cw => (mem_range_encode cw).symm)
  · rw [← hrest]
    exact Nat.card_congr (Equiv.subtypeEquivRight fun cw => by
      rw [Set.mem_compl_iff, mem_range_encode, not_exists])

namespace Machine

/-! ### Source lines -/

theorem assembleLine_of_wf {l : Line} (h : l.wf = true) : assembleLine l = some (lineWords l) := if_pos h

/-- The line of a command stands for the command's word. -/
theorem lineWords_line (i : Instr) : lineWords i.line = [encode i] := by
  cases i with
  | crcb imm | pushw imm => simp [Instr.line, lineWords, commandOf]
  | _ => rfl

/-- Bytes are in the range that R54 asks of a listed number. -/
theorem all_bytes_in_range (bs : List Byte) : ((bs.map BitVec.toNat).all fun v => decide (v ≤ 255)) = true := by
  simpa using fun b _ => Nat.le_of_lt_succ b.isLt

/-- Bytes written as numbers are read back. -/
theorem map_ofNat_map_toNat (bs : List Byte) : (bs.map BitVec.toNat).map (BitVec.ofNat 8) = bs := by
  simp [Function.comp_def]

/-- Settles O5: every line is well formed, and its numbers are read back as the words and bytes they were written
from. -/
theorem linesAssembleToTheirWords : Obligations.LinesAssembleToTheirWords := by
  refine ⟨fun i => ?command, fun cw => ?word, fun v => ?push32, fun bs => ?pushs, fun bs => ?crcs⟩
  case command => exact (assembleLine_of_wf (Instr_wf i)).trans (congrArg some (lineWords_line i))
  case word =>
    rw [assembleLine_of_wf (l := .word _) (decide_eq_true cw.isLt), lineWords, BitVec.ofNat_toNat,
      BitVec.setWidth_eq]
  case push32 =>
    rw [assembleLine_of_wf (l := .push32 _) (decide_eq_true v.isLt), lineWords, BitVec.ofNat_toNat, BitVec.setWidth_eq]
    rfl
  case pushs =>
    rw [assembleLine_of_wf (l := .pushs _) (all_bytes_in_range bs), lineWords, map_ofNat_map_toNat, pushBytes,
      List.map_map]
    rfl
  case crcs =>
    rw [assembleLine_of_wf (l := .crcs _) (all_bytes_in_range bs), lineWords, map_ofNat_map_toNat, feedBytes,
      List.map_map]
    rfl

/-! ### The step that a presented word makes -/

/-- A presented word is run on the state that holds the cycles after it (R133). -/
theorem step_of_presented {s : State} {cw : CommandWord} {rest : List PortCycle}
    (h : s.inputs = { rst := false, cmdValid := true, cmd := cw } :: rest) :
    step s = runWord cw { s with inputs := rest } := step_of_inputs_cons h

/-- A word that spells no command is ILLEGAL for some reason (R50). -/
theorem runWord_of_not_command {cw : CommandWord} (h : ∀ i, decode cw ≠ .command i) (s : State) :
    runWord cw s = illegalWord s := by
  cases hd : decode cw with
  | command i => exact absurd hd (h i)
  | illegal why => exact runWord_illegal hd s

/-- Settles O9: the presented word is run, and it is the command it decodes to. -/
theorem stepRunsTheDecodedCommand : Obligations.StepRunsTheDecodedCommand :=
  fun _ _ _ _ hin hd => (step_of_presented hin).trans (runWord_command hd _)

/-- Settles O11: the presented word is run as ILLEGAL, which the halt rule splits in two. -/
theorem reservedWordRaisesIllegalCommand : Obligations.ReservedWordRaisesIllegalCommand := by
  intro s cw rest hin hd
  have hstep : step s = illegalWord { s with inputs := rest } :=
    (step_of_presented hin).trans (runWord_of_not_command hd _)
  exact ⟨fun herr => hstep.trans (illegalWord_active herr), fun herr => hstep.trans (illegalWord_halted herr)⟩

end Machine
end Sys2Proof
end

section
/-! PROOFS. The checksum as a function (41_crc.md R60 to R64, R70): the byte step as iterations, its table form, its
form with the most significant bit first, and that no byte of a string can be changed unseen. -/

namespace Sys2Proof.Machine

/-! ### The byte step and its fold -/

theorem crcRounds_eq_iterate (n : Nat) (x : Word) : crcRounds n x = crcRound^[n] x := by
  induction n generalizing x with
  | zero => rfl
  | succ n ih => exact ih (crcRound x)

/-- Settles O15: the iteration written out there is `crcRound`. -/
theorem crcStepIsEightIterations : Obligations.CrcStepIsEightIterations :=
  fun c b => crcRounds_eq_iterate 8 (c ^^^ b.setWidth 32)

theorem crcOf_nil (c : Word) : crcOf c [] = c := rfl

theorem crcOf_cons (c : Word) (b : Byte) (m : List Byte) : crcOf c (b :: m) = crcOf (crcStep c b) m := rfl

theorem crcOf_append (c : Word) (a b : List Byte) : crcOf c (a ++ b) = crcOf (crcOf c a) b := List.foldl_append

/-- Settles O16: the fold of the empty, the longer and the joined string, and the definition of `crc32`. -/
theorem crcFoldsInOrderAndSplits : Obligations.CrcFoldsInOrderAndSplits :=
  ⟨crcOf_nil, crcOf_cons, crcOf_append, fun _ => rfl⟩

/-! ### The table form (R64 a) -/

/-- Iterations that shift out zeros only never XOR the polynomial in. -/
theorem crcRounds_eq_ushiftRight {n : Nat} {x : Word} (h : ∀ i < n, x.getLsbD i = false) :
    crcRounds n x = x >>> n := by
  induction n generalizing x with
  | zero => simp
  | succ n ih =>
    have hround : crcRound x = x >>> 1 := if_neg (by rw [h 0 n.succ_pos]; decide)
    have hlow : ∀ i < n, (x >>> 1).getLsbD i = false := fun i hi => by
      rw [BitVec.getLsbD_ushiftRight]; exact h (1 + i) (by omega)
    rw [crcRounds_succ, hround, ih hlow, ← BitVec.shiftRight_add, Nat.add_comm]

/-- The low byte of a word, as the word the table's iterations start from (R64 a). -/
def lowByte (x : Word) : Word := (x.extractLsb' 0 8).setWidth 32

theorem xor_lowByte_getLsbD (x : Word) : ∀ i < 8, (x ^^^ lowByte x).getLsbD i = false := by
  intro i hi
  simp [lowByte, hi, show i < 32 by omega]

theorem xor_lowByte_ushiftRight (x : Word) : (x ^^^ lowByte x) >>> 8 = x >>> 8 := by
  ext i hi
  simp [lowByte, BitVec.getElem_ushiftRight]

/-- Eight iterations are those of the low byte, and for the bytes above it a shift. -/
theorem crcRounds_eight (x : Word) : crcRounds 8 x = (x >>> 8) ^^^ crcRounds 8 (lowByte x) := by
  calc crcRounds 8 x = crcRounds 8 ((x ^^^ lowByte x) ^^^ lowByte x) := by
        rw [BitVec.xor_assoc, BitVec.xor_self, BitVec.xor_zero]
    _ = crcRounds 8 (x ^^^ lowByte x) ^^^ crcRounds 8 (lowByte x) := crcRounds_xor 8 _ _
    _ = (x >>> 8) ^^^ crcRounds 8 (lowByte x) := by
        rw [crcRounds_eq_ushiftRight (xor_lowByte_getLsbD x), xor_lowByte_ushiftRight]

/-- The byte enters the low byte of the register alone (R61). -/
theorem xor_byte_ushiftRight (c : Word) (b : Byte) : (c ^^^ b.setWidth 32) >>> 8 = c >>> 8 := by
  ext i hi
  simp [BitVec.getElem_ushiftRight]

/-- Settles O17: the iterations are linear, so the low byte's part of them is its table entry, and the rest is
shifted down unchanged. -/
theorem crcTableFormAgrees : Obligations.CrcTableFormAgrees := fun c b =>
  (crcRounds_eight _).trans (congrArg (· ^^^ _) (xor_byte_ushiftRight c b))

/-! ### The form with the most significant bit first (R64 b) -/

/-- The two forms of the polynomial are each other's reverse (R60). -/
theorem crcPoly_reverse : crcPolyMsbFirst.reverse = crcPoly := by
  apply BitVec.eq_of_getLsbD_eq
  simp only [BitVec.getLsbD_reverse]
  decide

theorem crcInit_reverse : crcInit.reverse = crcInit := by
  apply BitVec.eq_of_getLsbD_eq
  simp only [BitVec.getLsbD_reverse]
  decide

theorem reverse_shiftLeft_one (r : Word) : (r <<< 1).reverse = r.reverse >>> 1 := by
  ext i hi
  simp [BitVec.getElem_reverse, BitVec.getLsbD_reverse, Nat.add_comm]

theorem reverse_xor (x y : Word) : (x ^^^ y).reverse = x.reverse ^^^ y.reverse := by
  ext i hi
  simp [BitVec.getElem_reverse]

/-- One iteration of either form is the other's, on the reversed register. -/
theorem crcRound_reverse (r : Word) : crcRound r.reverse = (msbRound r).reverse := by
  have hbit : r.reverse.getLsbD 0 = r.getLsbD 31 := BitVec.getLsbD_reverse
  simp only [crcRound, msbRound, hbit, ← crcPoly_reverse, ← reverse_shiftLeft_one, ← reverse_xor]
  split <;> rfl

theorem crcRounds_reverse (n : Nat) (r : Word) : crcRounds n r.reverse = (msbRounds n r).reverse := by
  induction n generalizing r with
  | zero => rfl
  | succ n ih => rw [crcRounds_succ, crcRound_reverse, ih, msbRounds_succ]

/-- The reversed byte at the top is the byte at the bottom, reversed. -/
theorem reverse_byte_at_top (b : Byte) : (b.reverse.setWidth 32 <<< 24 : Word).reverse = b.setWidth 32 := by
  ext i hi
  simp [BitVec.getElem_reverse, BitVec.getMsbD_reverse]

theorem crcStep_reverse (r : Word) (b : Byte) : crcStep r.reverse b = (msbStep r b).reverse := by
  rw [crcStep, msbStep, ← crcRounds_reverse, reverse_xor, reverse_byte_at_top]

theorem crcOf_reverse (r : Word) (m : List Byte) : crcOf r.reverse m = (msbOf r m).reverse :=
  List.foldl_hom BitVec.reverse crcStep_reverse

/-- Settles O18: reversal carries each iteration, each byte step and so the fold of one form to the other; the
starting value is its own reverse. -/
theorem crcMsbFirstFormAgrees : Obligations.CrcMsbFirstFormAgrees := by
  refine ⟨crcOf_reverse, fun m => ?_⟩
  rw [crc32, ← crcInit_reverse, crcOf_reverse]
  rfl

/-! ### No byte changes unseen (R70 a) -/

/-- An iteration loses nothing: the bit shifted out stands in the top bit of the result. -/
theorem crcRound_injective : Function.Injective crcRound := by
  intro x y h
  have hbit : x.getLsbD 0 = y.getLsbD 0 := by rw [← crcRound_msb, ← crcRound_msb, h]
  have hshift : x >>> 1 = y >>> 1 := by
    simp only [crcRound, hbit] at h
    split at h
    · exact (BitVec.xor_left_inj _).mp h
    · exact h
  apply BitVec.eq_of_getLsbD_eq
  rintro (_ | i) hi
  · exact hbit
  · have hi' := congrArg (BitVec.getLsbD · i) hshift
    simpa [Nat.add_comm] using hi'

theorem crcRounds_injective (n : Nat) : Function.Injective (crcRounds n) := by
  rw [funext (crcRounds_eq_iterate n)]
  exact crcRound_injective.iterate n

theorem crcStep_injective_register (b : Byte) : Function.Injective (crcStep · b) := fun _ _ h =>
  (BitVec.xor_left_inj _).mp (crcRounds_injective 8 h)

theorem crcStep_injective_byte (c : Word) : Function.Injective (crcStep c) := fun a b h =>
  have hwide : a.setWidth 32 = b.setWidth 32 := (BitVec.xor_right_inj _).mp (crcRounds_injective 8 h)
  by simpa using congrArg (BitVec.setWidth 8) hwide

theorem crcOf_injective (m : List Byte) : Function.Injective (crcOf · m) := by
  induction m with
  | nil => exact fun _ _ h => h
  | cons b m ih => exact fun _ _ h => crcStep_injective_register b (ih h)

theorem crcFinish_injective : Function.Injective crcFinish := fun _ _ h => (BitVec.xor_left_inj _).mp h

/-- Two strings that differ in one byte at most have the same checksum only where that byte is the same. -/
theorem crc32_replace_byte_injective (pre post : List Byte) :
    Function.Injective fun b => crc32 (pre ++ b :: post) := by
  intro a b h
  have hstream : crcOf crcInit (pre ++ a :: post) = crcOf crcInit (pre ++ b :: post) := crcFinish_injective h
  rw [crcOf_append, crcOf_append] at hstream
  exact crcStep_injective_byte _ (crcOf_injective post hstream)

/-- A byte with one bit flipped is another byte. -/
theorem flip_bit_ne (b : Byte) {k : Nat} (hk : k < 8) : b ^^^ (1#8 <<< k) ≠ b := by
  intro h
  have hbit := congrArg (BitVec.getLsbD · k) h
  simp [hk] at hbit

end Sys2Proof.Machine
end

section
/-! PROOFS. The commands of the CRC family (41_crc.md R65 to R68): their words, their effect in a block with no error,
and a byte string fed to the checksum. -/

namespace Sys2Proof.Machine

/-! ### CRCINIT, CRCB, RDCRC -/

/-- Settles O29: the word of CRCINIT is the only one, and the effect is the record written out. -/
theorem crcinitStartsAChecksum : Obligations.CrcinitStartsAChecksum :=
  ⟨fun _ => decode_eq_command_iff.trans eq_comm, fun _ => exec_active .crcinit⟩

theorem exec_crcb (imm : Byte) {s : State} (h : s.block.err = 0) :
    exec (.crcb imm) s = .next
      { s with block := { s.block with crc := crcStep s.block.crc imm, crcOk := false }, out := none } :=
  exec_active (.crcb imm) h

/-- Settles O30: the words are the encoder's own, and feeding is one byte step. -/
theorem crcbFeedsOneByte : Obligations.CrcbFeedsOneByte :=
  ⟨fun imm => decode_encode (.crcb imm), fun imm _ => exec_crcb imm⟩

/-- Settles O31: the finished value is output and nothing written. -/
theorem rdcrcReadsTheFinishedChecksum : Obligations.RdcrcReadsTheFinishedChecksum :=
  ⟨decode_encode .rdcrc, fun _ => exec_active .rdcrc⟩

/-! ### A byte string fed (R62, R66) -/

/-- A run of feeds feeds its bytes in order. -/
theorem runCommands_feedBytes (imm : Byte) (bytes : List Byte) {s : State} (h : s.block.err = 0) :
    runCommands (feedBytes (imm :: bytes)) s =
      .next { s with
        block := { s.block with crc := crcOf s.block.crc (imm :: bytes), crcOk := false }, out := none } := by
  induction bytes generalizing imm s with
  | nil => exact (runCommands_cons (exec_crcb imm h) []).trans (runCommands_nil _)
  | cons next rest ih => exact (runCommands_cons (exec_crcb imm h) _).trans (ih next h)

/-- Settles O54, by induction on the string. -/
theorem feedingAStringFoldsIt : Obligations.FeedingAStringFoldsIt := by
  intro m s herr hm
  cases m with
  | nil => exact absurd rfl hm
  | cons imm bytes => exact runCommands_feedBytes imm bytes herr

/-! ### CHK -/

theorem exec_chk_incomplete {s : State} (herr : s.block.err = 0) (hwc : s.block.wc ≠ 4) :
    exec .chk s = .next (enterFault .seqError s) := by
  rw [exec_active .chk herr, effectOf, withCompleteWord_incomplete hwc, settle_raise]

theorem exec_chk_mismatch {s : State} (herr : s.block.err = 0) (hwc : s.block.wc = 4)
    (hne : crcFinish s.block.crc ≠ s.block.w) : exec .chk s = .next (enterFault .crcMismatch s) := by
  rw [exec_active .chk herr, effectOf, withCompleteWord_complete hwc, if_neg hne, settle_raise]

theorem exec_chk_match {s : State} (herr : s.block.err = 0) (hwc : s.block.wc = 4)
    (heq : crcFinish s.block.crc = s.block.w) :
    exec .chk s = .next { s with block := { s.block.clearWord with crcOk := true }, out := none } := by
  rw [exec_active .chk herr, effectOf, withCompleteWord_complete hwc, if_pos heq, settle]

/-- Settles O32: the gate of a complete word, then the comparison. -/
theorem chkComparesTheStoredChecksum : Obligations.ChkComparesTheStoredChecksum :=
  ⟨decode_encode .chk, fun _ herr => ⟨exec_chk_incomplete herr, exec_chk_mismatch herr, exec_chk_match herr⟩⟩

/-- Settles O19: the flipped byte is another byte, so the checksum of the string that was fed is another than the
stored one, and CHK finds them different. -/
theorem singleBitFlipIsDetected : Obligations.SingleBitFlipIsDetected := by
  intro pre post b k hk
  have hne : crc32 (pre ++ (b ^^^ (1#8 <<< k)) :: post) ≠ crc32 (pre ++ b :: post) :=
    (crc32_replace_byte_injective pre post).ne (flip_bit_ne b hk)
  refine ⟨hne, fun s herr hwc hcrc hw => exec_chk_mismatch herr hwc ?_⟩
  rw [hcrc, hw]
  exact hne

end Sys2Proof.Machine
end

section
/-! PROOFS. The word and length family as functions (42_word_length.md R75, R76, R84): the big-endian word as a number
and as the inverse of its four bytes, and the bound as a comparison of numbers. -/

namespace Sys2Proof.Machine

/-! ### The big-endian word -/

/-- The big-endian word as a number: each of the four pushes that spell it multiplies by 256 and adds a byte. -/
theorem be32_toNat (b0 b1 b2 b3 : Byte) :
    (be32 b0 b1 b2 b3).toNat = b0.toNat * 2 ^ 24 + b1.toNat * 2 ^ 16 + b2.toNat * 2 ^ 8 + b3.toNat := by
  have h0 : b0.toNat < 256 := b0.isLt
  have h1 : b1.toNat < 256 := b1.isLt
  have h2 : b2.toNat < 256 := b2.isLt
  have h3 : b3.toNat < 256 := b3.isLt
  simp only [← pushByte_four, pushByte_toNat]
  omega

/-- A big-endian word has one four-byte string: the bytes are the digits of its number to base 256. -/
theorem be32_injective {a0 a1 a2 a3 b0 b1 b2 b3 : Byte} (h : be32 a0 a1 a2 a3 = be32 b0 b1 b2 b3) :
    a0 = b0 ∧ a1 = b1 ∧ a2 = b2 ∧ a3 = b3 := by
  have hnat := congrArg BitVec.toNat h
  rw [be32_toNat, be32_toNat] at hnat
  refine ⟨?_, ?_, ?_, ?_⟩ <;> apply BitVec.eq_of_toNat_eq <;> omega

/-- The bytes of a big-endian word are the four it was put together from, since they spell the same word. -/
theorem be4_be32 (b0 b1 b2 b3 : Byte) : be4 (be32 b0 b1 b2 b3) = [b0, b1, b2, b3] := by
  obtain ⟨h0, h1, h2, h3⟩ := be32_injective (be32_bytes (be32 b0 b1 b2 b3))
  rw [be4, h0, h1, h2, h3]

/-- Settles O20: the value is the four digits to base 256, and every word comes from its own four bytes alone. -/
theorem be32IsTheBigEndianNumber : Obligations.Be32IsTheBigEndianNumber :=
  ⟨be32_toNat, fun v => ⟨_, _, _, _, be32_bytes v⟩, fun _ _ _ _ _ _ _ _ => be32_injective⟩

/-- Settles O21: the four bytes are read off by definition, and each function undoes the other. -/
theorem be4InvertsBe32 : Obligations.Be4InvertsBe32 := ⟨fun _ => rfl, be32_bytes, be4_be32⟩

/-! ### The bound -/

/-- The bound where it holds, as numbers (R84). -/
theorem fits_eq_true_iff (n l : Word) : fits n l = true ↔ l.toNat + 12 ≤ n.toNat := by
  rw [← Bool.not_eq_false, fits_eq_false_iff, not_lt]

/-- Settles O22: both clauses are the bound as numbers. -/
theorem fitsIsTheUnwrappedBound : Obligations.FitsIsTheUnwrappedBound :=
  ⟨fits_eq_true_iff, fun n l h => (fits_eq_false_iff n l).mpr (by omega)⟩

end Sys2Proof.Machine
end

section
/-! PROOFS. The commands of the word and length family (42_word_length.md R77 to R82): what the five consuming commands
have in common, and the words and the effects of PUSHW, CLRW, SETAVL, LATLEN and RDLEN in a block with no error. -/

namespace Sys2Proof.Machine

/-! ### The consuming commands (R77) -/

/-- The five commands that use the word in the assembler up. -/
def Consuming (i : Instr) : Prop :=
  i = .setavl ∨ i = .latlen ∨ i = .lattyp ∨ i = .lattyps ∨ i = .chk

/-- The error of a consuming command that finds the word incomplete. -/
def incompleteError : Instr → ErrKind
  | .lattyps => .invalidTypeCode
  | _ => .seqError

/-- The gate of a complete word is the first test of every consuming command. -/
theorem effectOf_incomplete {i : Instr} (hi : Consuming i) {b : Block} (hwc : b.wc ≠ 4) :
    effectOf i b = .raise (incompleteError i) := by
  obtain rfl | rfl | rfl | rfl | rfl := hi <;> (rw [effectOf, withCompleteWord_incomplete hwc]; rfl)

theorem exec_incomplete {i : Instr} (hi : Consuming i) {s : State} (herr : s.block.err = 0)
    (hwc : s.block.wc ≠ 4) : exec i s = .next (enterFault (incompleteError i) s) := by
  rw [exec_active i herr, effectOf_incomplete hi hwc, settle_raise]

/-- A consuming command that writes has cleared the word. -/
theorem word_cleared_of_writes {i : Instr} (hi : Consuming i) {b b' : Block} (h : Writes i b b') :
    b'.w = 0 ∧ b'.wc = 0 := by
  obtain rfl | rfl | rfl | rfl | rfl := hi <;> cases h <;> exact ⟨rfl, rfl⟩

/-- A consuming command has no output, so it writes or raises an error. -/
theorem consuming_effect_cases {i : Instr} (hi : Consuming i) (b : Block) :
    (∃ b', effectOf i b = .write b' ∧ Writes i b b') ∨ ∃ e, effectOf i b = .raise e := by
  cases hf : effectOf i b with
  | write b' => exact .inl ⟨b', rfl, writes_of_effectOf hf⟩
  | raise e => exact .inr ⟨e, rfl⟩
  | output v => obtain rfl | rfl | rfl | rfl | rfl := hi <;> simpa using read_of_effectOf hf

/-- Settles O47: the gate gives the first sentence, and of the two kinds of effect a write clears the word and an error
writes `ST.ERR` alone. -/
theorem consumingCommandsNeedACompleteWord : Obligations.ConsumingCommandsNeedACompleteWord := by
  intro i s t hi herr h
  refine ⟨fun hwc => ?_, ?_⟩
  · obtain rfl := Host.Outcome.next.inj ((exec_incomplete hi herr hwc).symm.trans h)
    obtain rfl | rfl | rfl | rfl | rfl := hi <;> rfl
  · rw [exec_active i herr] at h
    cases h
    obtain ⟨b', hf, hwrite⟩ | ⟨e, hf⟩ := consuming_effect_cases hi s.block
    · rw [hf]
      exact ⟨fun _ => word_cleared_of_writes hi hwrite, fun hne => absurd (err_writes herr hwrite) hne⟩
    · rw [hf]
      exact ⟨fun hz => absurd hz (errKind_code_ne_zero e), fun _ => rfl⟩

/-! ### PUSHW and CLRW -/

/-- The saturating count as a choice: one more below 5, else 5 (R78, R85). -/
theorem bumpCount_eq_ite (wc : BitVec 3) : bumpCount wc = if wc.toNat < 5 then wc + 1 else 5 := by
  apply BitVec.eq_of_toNat_eq
  rw [bumpCount_toNat]
  split
  · next hlt =>
    rw [Nat.min_eq_left hlt, BitVec.toNat_add]
    have hnarrow : wc.toNat + 1 < 2 ^ 3 := by omega
    exact (Nat.mod_eq_of_lt hnarrow).symm
  · next hge =>
    rw [Nat.min_eq_right (by omega)]
    rfl

/-- Settles O33: the words are the encoder's own, and the count is a choice on its value. -/
theorem pushwShiftsOneByteIn : Obligations.PushwShiftsOneByteIn :=
  ⟨fun imm => decode_encode (.pushw imm), fun imm s herr => by
    rw [exec_pushw imm herr, Block.push, bumpCount_eq_ite, pushByte]⟩

/-- Settles O34: the effect is the cleared word at every count. -/
theorem clrwClearsTheAssembler : Obligations.ClrwClearsTheAssembler :=
  ⟨decode_encode .clrw, fun _ => exec_active .clrw⟩

/-! ### SETAVL -/

theorem exec_setavl_small {s : State} (herr : s.block.err = 0) (hwc : s.block.wc = 4)
    (hsmall : s.block.w.toNat < 12) :
    exec .setavl s = .next (enterFault .tooShort s) := by
  rw [exec_active .setavl herr, effectOf, withCompleteWord_complete hwc,
    if_pos ((lt_minChunk_iff _).mpr hsmall), settle_raise]

theorem exec_setavl_large {s : State} (herr : s.block.err = 0) (hwc : s.block.wc = 4)
    (hlarge : 12 ≤ s.block.w.toNat) :
    exec .setavl s = .next
      { s with block := { s.block.clearWord with avl := s.block.w, avlv := true }, out := none } := by
  have hmin : ¬ s.block.w < minChunk := mt (lt_minChunk_iff _).mp (not_lt.mpr hlarge)
  rw [exec_active .setavl herr, effectOf, withCompleteWord_complete hwc, if_neg hmin, settle]

/-- Settles O35: the gate of a complete word, then the smallest chunk. -/
theorem setavlSetsTheBufferSize : Obligations.SetavlSetsTheBufferSize :=
  ⟨decode_encode .setavl, fun _ herr =>
    ⟨exec_incomplete (.inl rfl) herr, exec_setavl_small herr, exec_setavl_large herr⟩⟩

/-! ### LATLEN -/

/-- The test of LATLEN as numbers: a buffer size is set and the chunk does not fit it (R81, R84). -/
theorem avlv_and_not_fits_iff (b : Block) :
    (b.avlv && !fits b.avl b.w) = true ↔ b.avlv = true ∧ b.avl.toNat < b.w.toNat + 12 := by
  rw [Bool.and_eq_true, Bool.not_eq_true', fits_eq_false_iff]

theorem exec_latlen_truncated {s : State} (herr : s.block.err = 0) (hwc : s.block.wc = 4) (havlv : s.block.avlv = true)
    (hout : s.block.avl.toNat < s.block.w.toNat + 12) : exec .latlen s = .next (enterFault .truncated s) := by
  rw [exec_active .latlen herr, effectOf, withCompleteWord_complete hwc,
    if_pos ((avlv_and_not_fits_iff _).mpr ⟨havlv, hout⟩), settle_raise]

theorem exec_latlen_inside {s : State} (herr : s.block.err = 0) (hwc : s.block.wc = 4)
    (hin : s.block.avlv = true → s.block.w.toNat + 12 ≤ s.block.avl.toNat) :
    exec .latlen s = .next
      { s with block := { s.block.clearWord with len := s.block.w, lenv := true }, out := none } := by
  have htest : ¬ (s.block.avlv && !fits s.block.avl s.block.w) = true := fun h =>
    have ⟨havlv, hout⟩ := (avlv_and_not_fits_iff _).mp h
    not_lt.mpr (hin havlv) hout
  rw [exec_active .latlen herr, effectOf, withCompleteWord_complete hwc, if_neg htest, settle]

/-- Settles O36: the gate of a complete word, then the bound where a buffer size is set. -/
theorem latlenLatchesTheLength : Obligations.LatlenLatchesTheLength :=
  ⟨decode_encode .latlen, fun _ herr =>
    ⟨exec_incomplete (.inr (.inl rfl)) herr, exec_latlen_truncated herr, exec_latlen_inside herr⟩⟩

/-! ### RDLEN -/

/-- Settles O37: the gate of a latched register, closed and open. -/
theorem rdlenReadsTheLatchedLength : Obligations.RdlenReadsTheLatchedLength := by
  refine ⟨decode_encode .rdlen, fun s herr => ⟨fun hlenv => ?_, fun hlenv => ?_⟩⟩
  · rw [exec_active .rdlen herr, effectOf, hlenv, readLatched_false, settle_raise]; rfl
  · rw [exec_active .rdlen herr, effectOf, hlenv, readLatched_true, settle]

end Sys2Proof.Machine
end

section
/-! PROOFS. The type code as a value (43_typecode.md R90 to R96, R102): the letter classes as ranges of numbers, the
flags word bit by bit, and a letter's case as its bit 5. -/

namespace Sys2Proof.Machine

/-! ### The letter classes (R90) -/

theorem isUpper_iff (b : Byte) : isUpper b = true ↔ 0x41 ≤ b.toNat ∧ b.toNat ≤ 0x5A := by
  simp [isUpper, BitVec.le_def]

theorem isLower_iff (b : Byte) : isLower b = true ↔ 0x61 ≤ b.toNat ∧ b.toNat ≤ 0x7A := by
  simp [isLower, BitVec.le_def]

theorem isAlpha_iff (b : Byte) : isAlpha b = true ↔ isUpper b = true ∨ isLower b = true := by
  rw [isAlpha, Bool.or_eq_true]

/-- Settles O23: each class is its range of numbers. -/
theorem letterClassesAreTheAsciiRanges : Obligations.LetterClassesAreTheAsciiRanges :=
  ⟨isUpper_iff, isLower_iff, isAlpha_iff⟩

/-! ### The flags word (R91 to R96) -/

/-- The flags word put together one bit at a time, `VALID` first and `CRIT` last. -/
theorem flagsWord_eq_concat (t : Word) :
    flagsWord t = ((((((0#26).concat (isValid t)).concat (allAlpha t)).concat (isSafeToCopy t)).concat
      (isReservedBitValid t)).concat (isPublic t)).concat (isCritical t) := rfl

/-- The six flags, each at its bit. -/
theorem flagsWord_flags (t : Word) :
    (flagsWord t).getLsbD 0 = isCritical t ∧ (flagsWord t).getLsbD 1 = isPublic t ∧
    (flagsWord t).getLsbD 2 = isReservedBitValid t ∧ (flagsWord t).getLsbD 3 = isSafeToCopy t ∧
    (flagsWord t).getLsbD 4 = allAlpha t ∧ (flagsWord t).getLsbD 5 = isValid t := by
  simp [flagsWord_eq_concat]

theorem flagsWord_getLsbD_of_six_le (t : Word) {i : Nat} (hi : 6 ≤ i) : (flagsWord t).getLsbD i = false := by
  obtain ⟨k, rfl⟩ := Nat.exists_eq_add_of_le' hi
  simp [flagsWord_eq_concat]

/-- Settles O24: the flags are the properties by definition, and `VALID` is `ALPHA` and `RSV`. -/
theorem flagsWordBitByBit : Obligations.FlagsWordBitByBit := by
  intro t
  obtain ⟨hcrit, hpub, hrsv, hsafe, halpha, hvalid⟩ := flagsWord_flags t
  refine ⟨hcrit, hpub, hrsv, hsafe, halpha, ?_, fun _ => flagsWord_getLsbD_of_six_le t⟩
  rw [hvalid, halpha, hrsv, isValid]

/-! ### The bit view (R102) -/

theorem allAlpha_iff (t : Word) :
    allAlpha t = true ↔ isAlpha (byteOf 0 t) = true ∧ isAlpha (byteOf 1 t) = true ∧
      isAlpha (byteOf 2 t) = true ∧ isAlpha (byteOf 3 t) = true := by
  simp only [allAlpha, Bool.and_eq_true, and_assoc]

/-- Bit 5 of a byte is the bit worth 32 in its number. -/
theorem getLsbD_five (b : Byte) : b.getLsbD 5 = decide (b.toNat / 32 % 2 = 1) :=
  Nat.testBit_eq_decide_div_mod_eq

/-- The lower case of a letter is its bit 5: 'A' to 'Z' lie in 64..95 and 'a' to 'z' in 96..127. -/
theorem isLower_eq_bit_five {b : Byte} (h : isAlpha b = true) : isLower b = b.getLsbD 5 := by
  rw [Bool.eq_iff_iff, isLower_iff, getLsbD_five, decide_eq_true_iff]
  obtain hupper | hlower := (isAlpha_iff b).mp h
  · have hrange := (isUpper_iff b).mp hupper
    omega
  · have hrange := (isLower_iff b).mp hlower
    omega

/-- A letter is of one case only. -/
theorem isUpper_eq_not_isLower {b : Byte} (h : isAlpha b = true) : isUpper b = !isLower b := by
  rw [Bool.eq_iff_iff, Bool.not_eq_true', ← Bool.not_eq_true, isLower_iff, isUpper_iff]
  rw [isAlpha_iff, isLower_iff, isUpper_iff] at h
  omega

/-- Bit 5 of byte `k` is bit `29 - 8k` of the word. -/
theorem byteOf_getLsbD_five (k : Fin 4) (t : Word) : (byteOf k t).getLsbD 5 = t.getLsbD (29 - 8 * k.val) := by
  have hbit : 24 - 8 * k.val + 5 = 29 - 8 * k.val := by omega
  simp [byteOf, hbit]

theorem isLower_byteOf {k : Fin 4} {t : Word} (h : isAlpha (byteOf k t) = true) :
    isLower (byteOf k t) = t.getLsbD (29 - 8 * k.val) := by
  rw [isLower_eq_bit_five h, byteOf_getLsbD_five]

theorem isUpper_byteOf {k : Fin 4} {t : Word} (h : isAlpha (byteOf k t) = true) :
    isUpper (byteOf k t) = !t.getLsbD (29 - 8 * k.val) := by
  rw [isUpper_eq_not_isLower h, isLower_byteOf h]

/-- Settles O25: the case of each letter, read at its own bit of the word. -/
theorem lettersCarryTheirFlagsInBitFive : Obligations.LettersCarryTheirFlagsInBitFive := by
  intro t h
  obtain ⟨h0, h1, h2, h3⟩ := (allAlpha_iff t).mp h
  exact ⟨isUpper_byteOf h0, isUpper_byteOf h1, isUpper_byteOf h2, isLower_byteOf h3⟩

end Sys2Proof.Machine
end

section
/-! PROOFS. The commands of the type code family (43_typecode.md R97 to R100): their words and their effects in a block
with no error. -/

namespace Sys2Proof.Machine

/-! ### LATTYP and LATTYPS -/

theorem exec_lattyp_complete {s : State} (herr : s.block.err = 0) (hwc : s.block.wc = 4) :
    exec .lattyp s = .next
      { s with block := { s.block.clearWord with typ := s.block.w, typv := true }, out := none } := by
  rw [exec_active .lattyp herr, effectOf, withCompleteWord_complete hwc, settle]

/-- Settles O38: the gate of a complete word, and no other test. -/
theorem lattypLatchesRawBytes : Obligations.LattypLatchesRawBytes :=
  ⟨decode_encode .lattyp, fun _ herr =>
    ⟨exec_incomplete (.inr (.inr (.inl rfl))) herr, exec_lattyp_complete herr⟩⟩

theorem exec_lattyps_invalid {s : State} (herr : s.block.err = 0)
    (h : s.block.wc ≠ 4 ∨ ¬ allAlpha s.block.w = true) :
    exec .lattyps s = .next (enterFault .invalidTypeCode s) := by
  by_cases hwc : s.block.wc = 4
  · have hletters : ¬ allAlpha s.block.w = true := h.resolve_left (not_not.mpr hwc)
    rw [exec_active .lattyps herr, effectOf, withCompleteWord_complete hwc, if_neg hletters, settle_raise]
  · exact exec_incomplete (.inr (.inr (.inr (.inl rfl)))) herr hwc

theorem exec_lattyps_letters {s : State} (herr : s.block.err = 0) (hwc : s.block.wc = 4)
    (hletters : allAlpha s.block.w = true) :
    exec .lattyps s = .next
      { s with block := { s.block.clearWord with typ := s.block.w, typv := true }, out := none } := by
  rw [exec_active .lattyps herr, effectOf, withCompleteWord_complete hwc, if_pos hletters, settle]

/-- Settles O39: an incomplete word and a byte that is no letter raise the same error; the reserved bit has no part in
the test. -/
theorem lattypsLatchesFourLetters : Obligations.LattypsLatchesFourLetters :=
  ⟨decode_encode .lattyps, fun _ herr =>
    ⟨fun h => exec_lattyps_invalid herr (h.imp_right (mt (allAlpha_iff _).mp)),
      fun hwc h0 h1 h2 h3 => exec_lattyps_letters herr hwc ((allAlpha_iff _).mpr ⟨h0, h1, h2, h3⟩)⟩⟩

/-! ### RDTYP and RDFLG -/

/-- A read behind the gate of a latched register: `SeqError` while nothing is latched, else the value (D13). -/
theorem exec_readLatched {i : Instr} {s : State} {valid : Bool} {v : Word} (herr : s.block.err = 0)
    (heff : effectOf i s.block = readLatched valid v) :
    (valid = false → exec i s = .next (enterFault .seqError s)) ∧
    (valid = true → exec i s = .next { s with out := some v }) := by
  rw [exec_active i herr, heff]
  refine ⟨?_, ?_⟩ <;> rintro rfl <;> rfl

/-- Settles O40: the gate of a latched register, on `TYP` as it stands. -/
theorem rdtypReadsTheLatchedTypeCode : Obligations.RdtypReadsTheLatchedTypeCode :=
  ⟨decode_encode .rdtyp, fun _ herr => exec_readLatched herr rfl⟩

/-- Settles O41: the gate is the only test, so the flags are output for every content of `TYP`. -/
theorem rdflgReadsTheFlags : Obligations.RdflgReadsTheFlags :=
  ⟨decode_encode .rdflg, fun _ herr => exec_readLatched herr rfl⟩

end Sys2Proof.Machine
end

section
/-! PROOFS. The system commands NOP, CLR and RDST (44_system.md R105 to R107), which act in every state: their words,
that only CLR clears a latched error, and the fields of the status word. -/

namespace Sys2Proof.Machine

/-! ### NOP -/

theorem exec_nop (s : State) : exec .nop s = .next { s with out := none } := exec_eq_settle .nop s

/-- The step of a presented NOP takes its cycle and changes no register (R105). -/
theorem step_of_presented_nop {s : State} {rest : List PortCycle}
    (h : s.inputs = { rst := false, cmdValid := true, cmd := encode .nop } :: rest) :
    step s = .next { s with inputs := rest, out := none } :=
  (stepRunsTheDecodedCommand s _ rest .nop h (decode_encode .nop)).trans (exec_nop _)

/-- The step of a cycle with neither `rst` nor `cmd_valid` takes it and changes no register (R133). -/
theorem step_of_idle {s : State} {cw : CommandWord} {rest : List PortCycle}
    (h : s.inputs = { rst := false, cmdValid := false, cmd := cw } :: rest) :
    step s = .next { s with inputs := rest, out := none } := step_of_inputs_cons h

/-- Settles O26: the word of NOP is the only one, its effect is to write the block as it stands, and its step and that
of an idle cycle answer the same state. -/
theorem nopChangesNothing : Obligations.NopChangesNothing := by
  refine ⟨fun _ => decode_eq_command_iff.trans eq_comm, exec_nop, fun s cw rest => ?_⟩
  rw [step_of_presented_nop rfl, step_of_idle rfl]

/-! ### CLR -/

theorem exec_clr (s : State) : exec .clr s = .next { s with block := Block.reset, out := none } :=
  exec_eq_settle .clr s

/-- In a halted block a command does nothing or is CLR, so no other clears the error (R106, R114). -/
theorem eq_clr_of_clears_err {i : Instr} {s t : State} (herr : s.block.err ≠ 0) (h : exec i s = .next t)
    (hclear : t.block.err = 0) : i = .clr := by
  obtain hsame | ⟨hi, _⟩ | ⟨hzero, _⟩ | ⟨hzero, _⟩ := exec_block_cases h
  · exact absurd (hsame ▸ hclear) herr
  · exact hi
  · exact absurd hzero herr
  · exact absurd hzero herr

/-- Settles O27: the reset state is written out in its definition, and a halted block leaves its error by CLR only. -/
theorem clrResetsTheWholeBlock : Obligations.ClrResetsTheWholeBlock :=
  ⟨decode_encode .clr, exec_clr, fun _ _ _ => eq_clr_of_clears_err⟩

/-! ### RDST -/

theorem exec_rdst (s : State) : exec .rdst s = .next { s with out := some (statusWord s.block) } :=
  exec_eq_settle .rdst s

/-- The error code is the status word's lowest field. -/
theorem statusWord_err (b : Block) : (statusWord b).extractLsb' 0 4 = b.err :=
  BitVec.extractLsb'_append_eq_right

/-- The four flags, each at its bit (R16). -/
theorem statusWord_flags (b : Block) :
    (statusWord b).getLsbD 4 = b.crcOk ∧ (statusWord b).getLsbD 5 = b.lenv ∧
    (statusWord b).getLsbD 6 = b.typv ∧ (statusWord b).getLsbD 7 = b.avlv := by
  simp only [statusWord, BitVec.getLsbD_append]
  simp

/-- What stands above the flags and the error code: the push count, and zeros above it. -/
theorem statusWord_extractLsb'_of_eight_le (b : Block) {start len : Nat} (h : 8 ≤ start) :
    (statusWord b).extractLsb' start len = (0#21 ++ b.wc).extractLsb' (start - 8) len := by
  simp only [statusWord]
  iterate 5 rw [BitVec.extractLsb'_append_eq_of_le (by omega)]
  rfl

theorem statusWord_wc (b : Block) : (statusWord b).extractLsb' 8 3 = b.wc :=
  (statusWord_extractLsb'_of_eight_le b le_rfl).trans BitVec.extractLsb'_append_eq_right

theorem statusWord_reserved (b : Block) : (statusWord b).extractLsb' 11 21 = 0#21 :=
  (statusWord_extractLsb'_of_eight_le b (by decide)).trans BitVec.extractLsb'_append_eq_left

/-- Settles O28: the value is the status word, each of whose fields is read back from its own bits. -/
theorem rdstReadsTheStatusFields : Obligations.RdstReadsTheStatusFields := by
  refine ⟨decode_encode .rdst, fun s => ⟨statusWord s.block, exec_rdst s, ?_⟩⟩
  obtain ⟨hcrcOk, hlenv, htypv, havlv⟩ := statusWord_flags s.block
  exact ⟨statusWord_err _, hcrcOk, hlenv, htypv, havlv, statusWord_wc _, statusWord_reserved _⟩

end Sys2Proof.Machine
end

section
/-! PROOFS. Errors and the halted state (60_exceptions.md R110 to R117, R120): the error of each command is the one its
row of the table gives, its entry writes `ST.ERR` alone, and a halted block obeys only CLR, RDST and the reset input. -/

namespace Sys2Proof.Machine

/-! ### The error of an effect (R111) -/

/-- The error an effect raises, where it raises one. -/
def Effect.error? : Effect → Option ErrKind
  | .raise e => some e
  | .write _ | .output _ => none

@[simp] theorem error?_raise (e : ErrKind) : (Effect.raise e).error? = some e := rfl
@[simp] theorem error?_write (b : Block) : (Effect.write b).error? = none := rfl
@[simp] theorem error?_output (v : Word) : (Effect.output v).error? = none := rfl

theorem error?_eq_some_iff {f : Effect} {e : ErrKind} : f.error? = some e ↔ f = .raise e := by
  cases f <;> simp

/-- The gate of a complete word as the table writes it: the count first, as a number. -/
theorem error?_withCompleteWord (e : ErrKind) (b : Block) (use : Word → Effect) :
    (withCompleteWord e b use).error? = if b.wc.toNat ≠ 4 then some e else (use b.w).error? := by
  have hcount : b.wc = 4 ↔ b.wc.toNat = 4 := BitVec.toNat_inj.symm
  by_cases hwc : b.wc = 4
  · rw [withCompleteWord_complete hwc, if_neg (not_not_intro (hcount.mp hwc))]
  · rw [withCompleteWord_incomplete hwc, if_pos (mt hcount.mpr hwc), error?_raise]

theorem error?_readLatched (valid : Bool) (v : Word) :
    (readLatched valid v).error? = if valid = false then some .seqError else none := by
  cases valid <;> rfl

/-- A test that raises an error where it holds, under a condition `q` that says the same. -/
theorem error?_raise_if {p q : Prop} [Decidable p] [Decidable q] (hpq : p ↔ q) (e : ErrKind) (b : Block) :
    (if p then Effect.raise e else .write b).error? = if q then some e else none := by
  rw [apply_ite Effect.error?]
  exact if_congr hpq rfl rfl

/-- A test that raises an error where it does not hold, under a condition `q` that says so. -/
theorem error?_raise_unless {p q : Prop} [Decidable p] [Decidable q] (hpq : ¬p ↔ q) (e : ErrKind) (b : Block) :
    (if p then Effect.write b else .raise e).error? = if q then some e else none := by
  rw [← ite_not, error?_raise_if hpq]

/-- A type code is not all letters exactly when one of its four bytes is no letter (R95). -/
theorem not_allAlpha_iff_exists (t : Word) : ¬allAlpha t = true ↔ ∃ k : Fin 4, isAlpha (byteOf k t) = false := by
  have hall : allAlpha t = true ↔ ∀ k : Fin 4, isAlpha (byteOf k t) = true := by
    rw [allAlpha_iff]
    simp [Fin.forall_fin_succ]
  simp [hall]

/-- Every command raises the error of its row of the table, and none where no row holds (R111). -/
theorem error?_effectOf (i : Instr) (b : Block) : (effectOf i b).error? = faultTable i b := by
  cases i with
  | nop | clr | rdst | crcinit | crcb | rdcrc | pushw | clrw => rfl
  | rdlen | rdtyp | rdflg => exact error?_readLatched _ _
  | lattyp => rw [effectOf, error?_withCompleteWord]; rfl
  | setavl =>
    rw [effectOf, error?_withCompleteWord, error?_raise_if (lt_minChunk_iff b.w), faultTable]
  | latlen =>
    rw [effectOf, error?_withCompleteWord, error?_raise_if (avlv_and_not_fits_iff b), faultTable]
  | lattyps =>
    rw [effectOf, error?_withCompleteWord, error?_raise_unless (not_allAlpha_iff_exists b.w), faultTable]
  | chk =>
    have hcompare : ¬crcFinish b.crc = b.w ↔ b.crc ^^^ 0xFFFFFFFF ≠ b.w := Iff.rfl
    rw [effectOf, error?_withCompleteWord, error?_raise_unless hcompare, faultTable]

/-! ### The error code after a command (R110, R113) -/

/-- A command that acts in a block with no error leaves the code of the error its effect raises, and 0 where it
raises none. -/
theorem settle_effectOf_err (i : Instr) {s : State} (herr : s.block.err = 0) :
    (settle (effectOf i s.block) s).block.err = (effectOf i s.block).error?.elim 0 ErrKind.code := by
  cases hf : effectOf i s.block with
  | write b' => exact err_writes herr (writes_of_effectOf hf)
  | output v => exact herr
  | raise e => rfl

/-- Settles O45: the code left is that of the error the effect raises, which is the one of the table. -/
theorem faultsAreExactlyTheTable : Obligations.FaultsAreExactlyTheTable := by
  intro i s t herr h
  obtain rfl := Host.Outcome.next.inj ((exec_active i herr).symm.trans h)
  rw [settle_effectOf_err i herr, error?_effectOf]
  cases faultTable i s.block with
  | none => rfl
  | some e => cases e <;> rfl

/-- A presented word that makes the error non-zero does so by the entry of an error and by nothing else (R113). -/
theorem runWord_enters_fault {cw : CommandWord} {s t : State} (herr : s.block.err = 0)
    (h : runWord cw s = .next t) (hfault : t.block.err ≠ 0) : ∃ e : ErrKind, t = enterFault e s := by
  cases hd : decode cw with
  | illegal why =>
    rw [runWord_illegal hd, illegalWord_active herr] at h
    exact ⟨.illegalCommand, (Host.Outcome.next.inj h).symm⟩
  | command i =>
    rw [runWord_command hd, exec_active i herr] at h
    obtain rfl := Host.Outcome.next.inj h
    rw [settle_effectOf_err i herr] at hfault
    cases he : (effectOf i s.block).error? with
    | none => exact absurd (congrArg (·.elim 0 ErrKind.code) he) hfault
    | some e => exact ⟨e, by rw [error?_eq_some_iff.mp he, settle_raise]⟩

/-- Settles O44: the step is the entry of an error, whose code is not 0. -/
theorem faultEntryIsPrecise : Obligations.FaultEntryIsPrecise := by
  intro cw s t herr h hfault
  obtain ⟨e, ht⟩ := runWord_enters_fault herr h hfault
  exact ⟨e, ht, decide_eq_true hfault⟩

/-! ### The halted state (R114, R115, R117) -/

/-- In a halted block a command other than CLR and RDST does nothing; NOP never does anything. -/
theorem exec_halted_quiet {i : Instr} {s : State} (h : s.block.halted) (hclr : i ≠ .clr) (hrdst : i ≠ .rdst) :
    exec i s = .next (quiet s) := by
  cases hi : actsHalted i with
  | false => exact exec_halted hi h
  | true =>
    cases i with
    | nop => exact exec_nop s
    | clr => exact absurd rfl hclr
    | rdst => exact absurd rfl hrdst
    | _ => cases hi

/-- Every presented word in a halted block: the word of CLR, the word of RDST, and every other. -/
theorem runWord_halted (cw : CommandWord) {s : State} (h : s.block.halted) :
    runWord cw s = .next
      (if cw = 0x0100#16 then returnToReset s
       else if cw = 0x0200#16 then { s with out := some (statusWord s.block) }
       else quiet s) := by
  split
  · next hclr => exact hclr ▸ (runWord_command (decode_encode .clr) s).trans (exec_clr s)
  · next hclr =>
    split
    · next hrdst => exact hrdst ▸ (runWord_command (decode_encode .rdst) s).trans (exec_rdst s)
    · next hrdst =>
      cases hd : decode cw with
      | illegal why => exact (runWord_illegal hd s).trans (illegalWord_halted h)
      | command i =>
        have hword : encode i = cw := encode_of_decode hd
        rw [runWord_command hd]
        refine exec_halted_quiet h ?_ ?_
        · rintro rfl; exact hclr hword.symm
        · rintro rfl; exact hrdst hword.symm

/-- Settles O12: the presented word is run in the halted block that holds the cycles after it. -/
theorem haltedBlockObeysOnlyClrAndRdst : Obligations.HaltedBlockObeysOnlyClrAndRdst :=
  fun _ cw _ hin h => (step_of_presented hin).trans (runWord_halted cw h)

/-- A presented word leaves a halted block as it is, or is the word of CLR and resets it (R115). -/
theorem runWord_halted_block {cw : CommandWord} {s t : State} (h : s.block.halted) (hrun : runWord cw s = .next t) :
    t.block = s.block ∨ t.block = Block.reset ∧ cw = 0x0100#16 := by
  obtain rfl := Host.Outcome.next.inj ((runWord_halted cw h).symm.trans hrun)
  split
  · next hclr => exact .inr ⟨rfl, hclr⟩
  · split <;> exact .inl rfl

/-- Settles O46: an idle cycle changes nothing, the reset input resets, and a presented word does one or the other. -/
theorem haltIsLeftOnlyByClrOrReset : Obligations.HaltIsLeftOnlyByClrOrReset := by
  intro s t h hstep
  cases hin : s.inputs with
  | nil => rw [step_of_inputs_nil hin] at hstep; cases hstep; exact .inl rfl
  | cons c rest =>
    rw [step_of_inputs_cons hin, runCycle] at hstep
    split at hstep
    · next hrst => cases hstep; exact .inr ⟨rfl, c, rest, rfl, .inl hrst⟩
    · split at hstep
      · next hvalid =>
        obtain hsame | ⟨hreset, hcmd⟩ := runWord_halted_block (s := { s with inputs := rest }) h hstep
        · exact .inl hsame
        · exact .inr ⟨hreset, c, rest, rfl, .inr ⟨hvalid, hcmd⟩⟩
      · cases hstep; exact .inl rfl

end Sys2Proof.Machine
end

section
/-! PROOFS. Reset and idle cycles (70_reset_and_hazards.md R130, R133), what the outputs tell of the registers (R143),
and the commands that may come in either order (R136). -/

namespace Sys2Proof.Machine

/-! ### Cycles without a command -/

/-- Settles O7: the reset input wins over the word beside it, and a cycle with neither input runs nothing. -/
theorem resetAndIdleCycles : Obligations.ResetAndIdleCycles :=
  ⟨fun _ _ _ _ hin => (step_of_inputs_cons hin).trans (runCycle_of_rst rfl _), fun _ _ _ hin => step_of_idle hin⟩

/-! ### What the outputs tell -/

/-- The block with other values in the two registers that no output shows, `W` and `AVL`. -/
def Block.withHidden (b : Block) (w avl : Word) : Block := { b with w := w, avl := avl }

/-- An output is that of a read, and no read looks at `W` or `AVL`. -/
theorem effectOf_output_withHidden {i : Instr} {b : Block} {v : Word} (h : effectOf i b = .output v) (w avl : Word) :
    effectOf i (b.withHidden w avl) = .output v := by
  obtain rfl | rfl | rfl | rfl | rfl := read_of_effectOf h <;> exact h

/-- An output of a command is still there after a change of `W` and `AVL`. -/
theorem exec_out_withHidden {i : Instr} {s t t' : State} {w avl v : Word} (h : exec i s = .next t)
    (h' : exec i { s with block := s.block.withHidden w avl } = .next t') (hout : t.out = some v) :
    t'.out = some v := by
  obtain ⟨hacts, heff⟩ := effectOf_of_exec_out h hout
  have hread := exec_output (s := { s with block := s.block.withHidden w avl }) hacts
    (effectOf_output_withHidden heff w avl)
  obtain rfl := Host.Outcome.next.inj (hread.symm.trans h')
  rfl

theorem illegalWord_out {s t : State} (h : illegalWord s = .next t) : t.out = none := by
  by_cases herr : s.block.err = 0
  · rw [illegalWord_active herr] at h
    cases h; rfl
  · rw [illegalWord_halted herr] at h
    cases h; rfl

/-- Settles O51: a word that spells no command has no output, and the two blocks of a command can each be had from the
other by a change of `W` and `AVL`, so that either run shows every output of the other. -/
theorem outputsDoNotShowTheAssemblerOrTheBufferSize : Obligations.OutputsDoNotShowTheAssemblerOrTheBufferSize := by
  intro cw s t t' w avl h h'
  cases hd : decode cw with
  | illegal why =>
    rw [runWord_illegal hd] at h h'
    rw [illegalWord_out h, illegalWord_out h']
  | command i =>
    rw [runWord_command hd] at h h'
    exact Option.ext fun v =>
      ⟨exec_out_withHidden (w := s.block.w) (avl := s.block.avl) h' h, exec_out_withHidden h h'⟩

/-! ### Commands in either order -/

/-- Settles O52: CRCB writes `CRC` and `ST.CRCOK`, the other command neither reads nor writes these, and neither
raises an error. -/
theorem feedingCommutesWithPushingAndLatching : Obligations.FeedingCommutesWithPushingAndLatching := by
  rintro a j s herr (⟨b, rfl⟩ | ⟨rfl, hwc⟩)
  · exact ⟨_, _, _, exec_crcb a herr, exec_pushw b herr, exec_pushw b herr, exec_crcb a herr⟩
  · exact ⟨_, _, _, exec_crcb a herr, exec_lattyp_complete herr hwc, exec_lattyp_complete herr hwc,
      exec_crcb a herr⟩

end Sys2Proof.Machine
end

section
/-! PROOFS. Runs of commands one after the other, and the generating sequence (70_reset_and_hazards.md R142): the
checksum of type and payload, output by the last of its commands. -/

namespace Sys2Proof.Machine

/-! ### Runs put together -/

theorem exec_next (i : Instr) (s : State) : ∃ t, exec i s = .next t := ⟨_, exec_eq_settle i s⟩

/-- A run of two lists of commands goes on from the end of the first. -/
theorem runCommands_append {cs : List Instr} {s t : State} (h : runCommands cs s = .next t) (ds : List Instr) :
    runCommands (cs ++ ds) s = runCommands ds t := by
  induction cs generalizing s with
  | nil => cases h; rfl
  | cons i cs ih =>
    obtain ⟨u, hi⟩ := exec_next i s
    rw [runCommands_cons hi] at h
    exact (runCommands_cons hi (cs ++ ds)).trans (ih h)

/-- A run of one command is the command. -/
theorem runCommands_singleton {i : Instr} {s t : State} (h : exec i s = .next t) : runCommands [i] s = .next t :=
  runCommands_cons h []

/-- The outputs of a run: that of its first command, and those of the rest. -/
theorem runOutputs_cons {i : Instr} {s t : State} (h : exec i s = .next t) (k : Nat) (cs : List Instr) :
    runOutputs k ((i :: cs).map encode) s =
      (t.out.map fun v => (k, v)).toList ++ runOutputs (k + 1) (cs.map encode) t := by
  simp only [List.map_cons, runOutputs, (present_encode i s).trans h]

/-- The outputs of two lists of commands: those of the first, and those of the second from where the first ends. -/
theorem runOutputs_append {cs : List Instr} {s t : State} (h : runCommands cs s = .next t) (k : Nat)
    (ds : List Instr) :
    runOutputs k ((cs ++ ds).map encode) s =
      runOutputs k (cs.map encode) s ++ runOutputs (k + cs.length) (ds.map encode) t := by
  induction cs generalizing k s with
  | nil => cases h; rfl
  | cons i cs ih =>
    obtain ⟨u, hi⟩ := exec_next i s
    rw [runCommands_cons hi] at h
    rw [List.cons_append, runOutputs_cons hi, runOutputs_cons hi, ih h, List.append_assoc, List.length_cons,
      Nat.add_right_comm, Nat.add_assoc]

/-- Feeding has no output. -/
theorem runOutputs_feedBytes (k : Nat) (m : List Byte) {s : State} (h : s.block.err = 0) :
    runOutputs k ((feedBytes m).map encode) s = [] := by
  induction m generalizing k s with
  | nil => rfl
  | cons imm m ih => exact (runOutputs_cons (exec_crcb imm h) k (feedBytes m)).trans (ih (k + 1) h)

@[simp] theorem feedBytes_length (m : List Byte) : (feedBytes m).length = m.length := List.length_map ..

/-! ### The checksum register in a run (R65, R66) -/

/-- The state with `CRC` at a value and `ST.CRCOK` cleared, as CRCINIT and CRCB leave it. -/
def State.withCrc (s : State) (c : Word) : State :=
  { s with block := { s.block with crc := c, crcOk := false }, out := none }

theorem exec_crcinit {s : State} (h : s.block.err = 0) : exec .crcinit s = .next (s.withCrc crcInit) :=
  exec_active .crcinit h

theorem exec_rdcrc {s : State} (h : s.block.err = 0) :
    exec .rdcrc s = .next { s with out := some (crcFinish s.block.crc) } := exec_active .rdcrc h

/-- Bytes fed after CRCINIT or after other bytes, of any number, fold into `CRC`. -/
theorem runCommands_feedBytes_withCrc (m : List Byte) (c : Word) {s : State} (h : s.block.err = 0) :
    runCommands (feedBytes m) (s.withCrc c) = .next (s.withCrc (crcOf c m)) := by
  induction m generalizing c with
  | nil => rfl
  | cons imm m ih => exact (runCommands_cons (exec_crcb imm (s := s.withCrc c) h) (feedBytes m)).trans (ih _)

/-! ### The generating sequence (R142) -/

/-- The generating sequence feeds type and payload as one string. -/
theorem generateSequence_eq (t : Word) (d : List Byte) :
    generateSequence t d = .crcinit :: (feedBytes (be4 t ++ d) ++ [.rdcrc]) := by
  simp [generateSequence, feedBytes]

/-- Settles O55: the register starts anew, takes the bytes of type and payload without an output, and is finished and
output by the last command. -/
theorem generateSequenceYieldsTheChecksum : Obligations.GenerateSequenceYieldsTheChecksum := by
  intro t d s herr
  have hlength : (be4 t ++ d).length = 4 + d.length := by rw [List.length_append, be4_length]
  have hinit := exec_crcinit herr
  have hfeed := runCommands_feedBytes_withCrc (be4 t ++ d) crcInit herr
  have hread := exec_rdcrc (s := s.withCrc (crcOf crcInit (be4 t ++ d))) herr
  rw [generateSequence_eq]
  refine ⟨?length, ?final, ?outputs⟩
  case length =>
    rw [List.length_cons, List.length_append, feedBytes_length, hlength, List.length_singleton]
    omega
  case final =>
    rw [runCommands_cons hinit, runCommands_append hfeed, runCommands_singleton hread]
    rfl
  case outputs =>
    rw [commandOutputs, runOutputs_cons hinit, runOutputs_append hfeed,
      runOutputs_feedBytes _ _ (s := s.withCrc crcInit) herr, runOutputs_cons hread, feedBytes_length, hlength,
      show 0 + 1 + (4 + d.length) = 5 + d.length by omega]
    rfl

end Sys2Proof.Machine
end

section
/-! PROOFS. The verifying sequence (70_reset_and_hazards.md R140, R141) over any buffer: its length, and its end, which
is the document's verdict (60_exceptions.md R117, R124). Each part of it pushes a word and hands it to the command that
consumes it; once a command has raised an error the rest is ignored. -/

namespace Sys2Proof.Machine

/-! ### The fields of a buffer as words -/

/-- Four bytes that a buffer holds are the bytes of the word there (R31, R76). -/
theorem take_four_drop {pos : Nat} {c : List Byte} (h : pos + 4 ≤ c.length) :
    (c.drop pos).take 4 = be4 (wordAt pos c) := by
  have hword : wordAt pos c = wordAt 0 (c.drop pos) := by
    have hfront : (c.take pos).length = pos := List.length_take_of_le (by omega)
    simpa only [hfront, List.take_append_drop] using wordAt_append (c.take pos) (c.drop pos)
  have hlength : 4 ≤ (c.drop pos).length := by rw [List.length_drop]; omega
  rw [hword]
  match c.drop pos, hlength with
  | b0 :: b1 :: b2 :: b3 :: rest, _ => exact (be4_be32 b0 b1 b2 b3).symm

theorem lengthField_eq_be4 {c : List Byte} (h : 12 ≤ c.length) : lengthField c = be4 (declaredLength c) :=
  take_four_drop (pos := 0) (by omega)

theorem typeField_eq_be4 {c : List Byte} (h : 12 ≤ c.length) : typeField c = be4 (wordAt 4 c) :=
  take_four_drop (by omega)

theorem crcField_eq_be4 {l : Nat} {c : List Byte} (h : chunkSize l ≤ c.length) :
    crcField l c = be4 (wordAt (8 + l) c) :=
  take_four_drop (by rw [chunkSize] at h; omega)

theorem twelve_le_of_chunkSize_le {l n : Nat} (h : chunkSize l ≤ n) : 12 ≤ n := by
  rw [chunkSize] at h; omega

/-! ### The length of the sequence (R140) -/

@[simp] theorem pushBytes_length (bytes : List Byte) : (pushBytes bytes).length = bytes.length := List.length_map ..

theorem coveredBytes_length {l : Nat} {c : List Byte} (h : chunkSize l ≤ c.length) :
    (coveredBytes l c).length = 4 + l := by
  rw [coveredBytes, List.length_take, List.length_drop]
  rw [chunkSize] at h
  omega

/-- Settles O57: the size, the three fields and the covered bytes are 4, 4, 4, 4 and 4 + L operands, and six commands
take none. -/
theorem verifySequenceLength : Obligations.VerifySequenceLength := by
  intro c h
  have hsize := twelve_le_of_chunkSize_le h
  simp only [verifySequence, push32, lengthField_eq_be4 hsize, typeField_eq_be4 hsize, crcField_eq_be4 h,
    List.length_append, List.length_singleton, pushBytes_length, feedBytes_length, be4_length, coveredBytes_length h]
  omega

/-! ### The parts of the sequence -/

/-- The last part of the sequence: type code, checksum and comparison. -/
def checkPart (c : List Byte) : List Instr :=
  pushBytes (typeField c) ++ .lattyp :: .crcinit ::
    (feedBytes (coveredBytes (declaredLength c).toNat c)
      ++ (pushBytes (crcField (declaredLength c).toNat c) ++ [.chk]))

/-- What follows the setting of the buffer size: the length, and the last part. -/
def lengthPart (c : List Byte) : List Instr := pushBytes (lengthField c) ++ .latlen :: checkPart c

theorem verifySequence_eq_parts (c : List Byte) :
    verifySequence c = .clr :: (push32 (BitVec.ofNat 32 c.length) ++ .setavl :: lengthPart c) := by
  simp [verifySequence, lengthPart, checkPart]

theorem clr_not_mem_pushBytes (bytes : List Byte) : .clr ∉ pushBytes bytes := by simp [pushBytes]

theorem clr_not_mem_checkPart (c : List Byte) : .clr ∉ checkPart c := by
  simp [checkPart, clr_not_mem_pushBytes, feedBytes]

theorem clr_not_mem_lengthPart (c : List Byte) : .clr ∉ lengthPart c := by
  simp [lengthPart, clr_not_mem_pushBytes, clr_not_mem_checkPart]

/-! ### A halted block in a run -/

theorem exec_halted_block {i : Instr} {s t : State} (h : s.block.halted) (hclr : i ≠ .clr)
    (hexec : exec i s = .next t) : t.block = s.block := by
  obtain hsame | ⟨hi, _⟩ | ⟨hzero, _⟩ | ⟨hzero, _⟩ := exec_block_cases hexec
  · exact hsame
  · exact absurd hi hclr
  · exact absurd hzero h
  · exact absurd hzero h

/-- A halted block is left as it is by every run without a CLR (R114). -/
theorem runCommands_halted_block {cs : List Instr} {s : State} (h : s.block.halted) (hclr : .clr ∉ cs) :
    ∃ t, runCommands cs s = .next t ∧ t.block = s.block := by
  induction cs generalizing s with
  | nil => exact ⟨s, rfl, rfl⟩
  | cons i cs ih =>
    obtain ⟨hi, hcs⟩ := List.ne_and_not_mem_of_not_mem_cons hclr
    obtain ⟨u, hexec⟩ := exec_next i s
    have hblock := exec_halted_block h hi.symm hexec
    obtain ⟨t, hrun, ht⟩ := ih (hblock ▸ h : u.block.halted) hcs
    exact ⟨t, (runCommands_cons hexec cs).trans hrun, ht.trans hblock⟩

/-- A run that has entered an error ends with it, if no CLR follows. -/
theorem runCommands_enterFault {cs : List Instr} (hclr : .clr ∉ cs) (e : ErrKind) (s : State) :
    ∃ t, runCommands cs (enterFault e s) = .next t ∧ t.block.err = e.code := by
  obtain ⟨t, hrun, hblock⟩ := runCommands_halted_block (s := enterFault e s) (errKind_code_ne_zero e) hclr
  exact ⟨t, hrun, congrArg Block.err hblock⟩

/-! ### The block between the parts -/

/-- The state with the registers of `b` and no output. -/
def State.holding (s : State) (b : Block) : State := { s with block := b, out := none }

/-- The block with a complete word in its assembler. -/
def Block.withWord (b : Block) (v : Word) : Block := { b with w := v, wc := 4 }

/-- A word pushed into an empty assembler, and the command that takes it. -/
theorem runCommands_push32_cons {b : Block} {v : Word} {i : Instr} {s t : State} (herr : b.err = 0) (hw : b.w = 0)
    (hwc : b.wc = 0) (h : exec i (s.holding (b.withWord v)) = .next t) (cs : List Instr) :
    runCommands (push32 v ++ i :: cs) (s.holding b) = runCommands cs t := by
  obtain ⟨_, hpush, _⟩ := fourPushesSpellTheWord (s.holding b) herr hw hwc
  exact (runCommands_append (hpush v) (i :: cs)).trans (runCommands_cons h cs)

/-- The block once the buffer size is set. -/
def sizedBlock (c : List Byte) : Block := { Block.reset with avl := BitVec.ofNat 32 c.length, avlv := true }

/-- The block once the length is latched too. -/
def lengthBlock (c : List Byte) : Block := { sizedBlock c with len := declaredLength c, lenv := true }

/-- The block once the type code is latched too. -/
def typedBlock (c : List Byte) : Block := { lengthBlock c with typ := wordAt 4 c, typv := true }

/-- The block once the covered bytes are fed. -/
def fedBlock (c : List Byte) : Block :=
  { typedBlock c with crc := crcOf crcInit (coveredBytes (declaredLength c).toNat c) }

/-! ### From any state to the verdict -/

section
variable {c : List Byte} (s : State)

theorem ofNat_length_toNat (hbound : c.length < 2 ^ 32) : (BitVec.ofNat 32 c.length).toNat = c.length := by
  rw [BitVec.toNat_ofNat, Nat.mod_eq_of_lt hbound]

/-- From any state the sequence resets the block and presents the buffer size. -/
theorem verify_of_setavl {t : State}
    (h : exec .setavl (s.holding (Block.reset.withWord (BitVec.ofNat 32 c.length))) = .next t) :
    runCommands (verifySequence c) s = runCommands (lengthPart c) t := by
  rw [verifySequence_eq_parts]
  exact (runCommands_cons (exec_clr s) _).trans (runCommands_push32_cons (b := Block.reset) rfl rfl rfl h _)

theorem verify_short (hbound : c.length < 2 ^ 32) (hshort : c.length < 12) :
    ∃ t, runCommands (verifySequence c) s = .next t ∧ t.block.err = ErrKind.code .tooShort := by
  rw [verify_of_setavl s (exec_setavl_small rfl rfl ((ofNat_length_toNat hbound).trans_lt hshort))]
  exact runCommands_enterFault (clr_not_mem_lengthPart c) _ _

/-- A size of 12 or more is set, and the word of the length is presented. -/
theorem verify_of_latlen (hbound : c.length < 2 ^ 32) (hsize : 12 ≤ c.length) {t : State}
    (h : exec .latlen (s.holding ((sizedBlock c).withWord (declaredLength c))) = .next t) :
    runCommands (verifySequence c) s = runCommands (checkPart c) t := by
  have hset : 12 ≤ (BitVec.ofNat 32 c.length).toNat := hsize.trans_eq (ofNat_length_toNat hbound).symm
  rw [verify_of_setavl s (exec_setavl_large rfl rfl hset), lengthPart, lengthField_eq_be4 hsize]
  exact runCommands_push32_cons (b := sizedBlock c) rfl rfl rfl h _

theorem verify_truncated (hbound : c.length < 2 ^ 32) (hsize : 12 ≤ c.length)
    (htrunc : c.length < chunkSize (declaredLength c).toNat) :
    ∃ t, runCommands (verifySequence c) s = .next t ∧ t.block.err = ErrKind.code .truncated := by
  have hout : (sizedBlock c).avl.toNat < (declaredLength c).toNat + 12 :=
    (ofNat_length_toNat hbound).trans_lt (by rw [chunkSize] at htrunc; omega)
  rw [verify_of_latlen s hbound hsize (exec_latlen_truncated rfl rfl rfl hout)]
  exact runCommands_enterFault (clr_not_mem_checkPart c) _ _

/-- A buffer that holds its chunk has its length and its type code latched and its bytes fed, and the word of its
`crc` field is presented. -/
theorem verify_of_chk (hbound : c.length < 2 ^ 32) (hsize : chunkSize (declaredLength c).toNat ≤ c.length) {t : State}
    (h : exec .chk (s.holding ((fedBlock c).withWord (wordAt (8 + (declaredLength c).toNat) c))) = .next t) :
    runCommands (verifySequence c) s = .next t := by
  have hmin := twelve_le_of_chunkSize_le hsize
  have hin : (declaredLength c).toNat + 12 ≤ (sizedBlock c).avl.toNat :=
    le_trans (by rw [chunkSize] at hsize; omega) (ofNat_length_toNat hbound).ge
  have htyp := exec_lattyp_complete (s := s.holding ((lengthBlock c).withWord (wordAt 4 c))) rfl rfl
  have hinit := exec_crcinit (s := s.holding (typedBlock c)) rfl
  have hfeed := runCommands_feedBytes_withCrc (coveredBytes (declaredLength c).toNat c) crcInit
    (s := s.holding (typedBlock c)) rfl
  rw [verify_of_latlen s hbound hmin (exec_latlen_inside rfl rfl fun _ => hin), checkPart, typeField_eq_be4 hmin,
    crcField_eq_be4 hsize]
  calc
    _ = _ := runCommands_push32_cons (b := lengthBlock c) rfl rfl rfl htyp _
    _ = _ := runCommands_cons hinit _
    _ = _ := runCommands_append hfeed _
    _ = _ := runCommands_push32_cons (b := fedBlock c) rfl rfl rfl h []

theorem verify_mismatch (hbound : c.length < 2 ^ 32) (hsize : chunkSize (declaredLength c).toNat ≤ c.length)
    (hne : crc32 (coveredBytes (declaredLength c).toNat c) ≠ wordAt (8 + (declaredLength c).toNat) c) :
    ∃ t, runCommands (verifySequence c) s = .next t ∧ t.block.err = ErrKind.code .crcMismatch :=
  ⟨_, verify_of_chk s hbound hsize (exec_chk_mismatch rfl rfl hne), rfl⟩

/-- The end of the sequence on a buffer that the document refuses. -/
theorem verify_refused (hbound : c.length < 2 ^ 32) {e : ErrKind} (h : parseVerdict c = some e) :
    ∃ t, runCommands (verifySequence c) s = .next t ∧ t.block.err = e.code := by
  rw [parseVerdict] at h
  split_ifs at h with hshort htrunc hcrc <;> cases h
  · exact verify_short s hbound hshort
  · exact verify_truncated s hbound (not_lt.mp hshort) htrunc
  · exact verify_mismatch s hbound (not_lt.mp htrunc) hcrc

/-- The end of the sequence on a buffer that the document accepts. -/
theorem verify_accepted (hbound : c.length < 2 ^ 32) (h : parseVerdict c = none) :
    runCommands (verifySequence c) s = .next (s.holding { fedBlock c with crcOk := true }) := by
  obtain ⟨hsize, hcrc⟩ := (parseVerdict_eq_none_iff c).mp h
  exact verify_of_chk s hbound hsize (exec_chk_match rfl rfl hcrc)

end

/-- The status word of an accepted chunk: the four flags, no error, and an empty assembler (R141). -/
theorem statusWord_accepted (c : List Byte) : statusWord { fedBlock c with crcOk := true } = 0xF0#32 :=
  have hflags : statusWord { Block.reset with avlv := true, typv := true, lenv := true, crcOk := true } = 0xF0#32 := by
    decide
  hflags

/-- Settles O56: each verdict of the document is the end of the sequence, and the registers of an accepted chunk are
those of the block that fed its bytes. -/
theorem verifySequenceGivesTheVerdict : Obligations.VerifySequenceGivesTheVerdict := by
  intro c s hbound
  cases hv : parseVerdict c with
  | some e =>
    obtain ⟨t, hrun, herr⟩ := verify_refused s hbound hv
    exact ⟨t, hrun, fun e' he => Option.some.inj he ▸ herr, nofun⟩
  | none =>
    obtain ⟨_, hcrc⟩ := (parseVerdict_eq_none_iff c).mp hv
    exact ⟨_, verify_accepted s hbound hv, nofun,
      fun _ => ⟨⟨rfl, rfl⟩, rfl, rfl, rfl, rfl, hcrc, ofNat_length_toNat hbound, statusWord_accepted c⟩⟩

end Sys2Proof.Machine
end
